-- ==== Sys2Proof/Word.lean ====
section
/-! DEFINITION. The word types of the DBSR block: the widths of 00_scope.md rule R6, and the logic level of rule R7. -/

namespace Sys2Proof

/-- An operation word or a result word, `CW` = `RW` = 64 bits (R6, R80, R96). -/
abbrev Word64 := BitVec 64
/-- One byte of buffer memory or of a serialised word (R61, R64). -/
abbrev Byte := BitVec 8
/-- A logic level: `false` is low (0), `true` is high (1) (R7). -/
abbrev Level := Bool
/-- A pin mask, `PINW` = 16 bits (R6). -/
abbrev PinMask := BitVec 16
/-- The index of a pin within its port, bits [3:0] of a line identifier (R7). -/
abbrev PinIndex := BitVec 4
/-- A port number, `PORTW` = 4 bits (R6). -/
abbrev PortNum := BitVec 4
/-- A line identifier, `LINEW` = 8 bits: port in [7:4], pin index in [3:0] (R7). -/
abbrev LineId := BitVec 8
/-- A callback identifier, `CBW` = 8 bits (R6). -/
abbrev CallbackId := BitVec 8
/-- A timer handle, `TIMW` = 2 bits; 0 is the null handle (R6). -/
abbrev TimerHandle := BitVec 2
/-- An SPI peripheral handle, `SPIW` = 2 bits; 0 is the null handle (R6). -/
abbrev SpiHandle := BitVec 2
/-- `debounce_time_ms`, `MSW` = 16 bits (R6). -/
abbrev Millis := BitVec 16
/-- A count of 0.1 ms ticks, `PERW` = 20 bits (R6). -/
abbrev Ticks := BitVec 20
/-- A buffer-memory address, `ADDRW` = 16 bits (R6). -/
abbrev Addr := BitVec 16
/-- A transfer length, `LENW` = 8 bits (R6). -/
abbrev Len := BitVec 8
/-- A shift-register instance descriptor, `DESCW` = 32 bits (R6, R93). -/
abbrev Desc := BitVec 32
/-- A collaborator's error code, 8 bits; 0 is accepted (R8, R38). -/
abbrev ErrCode := BitVec 8
/-- The value half of a result word, bits [63:32] (R96). -/
abbrev ResultValue := BitVec 32

end Sys2Proof
end

