-- ==== Sys2Proof/Machine/Operands.lean ====
section
/-! DEFINITION. How operands are read (30_encoding.md rules R92 to R95, 00_scope.md rule R7): pin masks and line identifiers,
and the instance descriptor taken apart and put together. Pure functions of words; no state. -/

namespace Sys2Proof.Machine

/-- How many of the `n` lowest bits of `v` are 1. -/
def onesBelow (v : PinMask) : Nat → Nat
  | 0 => 0
  | n + 1 => onesBelow v n + (v.getLsbD n).toNat

/-- `popcount(v)`: the number of 1 bits of `v` (R7). -/
def popcount (v : PinMask) : Nat := onesBelow v 16

/-- The lowest of the positions `i`, `i+1`, … whose bit is 1, looking at `fuel` of them. -/
def lowestOne (v : PinMask) (i : Nat) : Nat → Nat
  | 0 => i
  | fuel + 1 => if v.getLsbD i then i else lowestOne v (i + 1) fuel

/-- `ctz(v)`: the position of the lowest 1 bit of a non-zero `v` (R7). -/
def ctz (v : PinMask) : PinIndex := BitVec.ofNat 4 (lowestOne v 0 15)

/-- The pin mask of a pin index: `1 << index` (R7). -/
def pinMaskOf (i : PinIndex) : PinMask := 1#16 <<< i.toNat

/-- The port of a line identifier, bits [7:4] (R7). -/
def portOf (ln : LineId) : PortNum := ln.extractLsb' 4 4

/-- The pin index of a line identifier, bits [3:0] (R7). -/
def pinIndexOf (ln : LineId) : PinIndex := ln.extractLsb' 0 4

/-- `line(port, pin)` = `port ++ ctz(pin)` (R7, R92). -/
def lineOf (port : PortNum) (pin : PinMask) : LineId := port ++ ctz pin

/-- The line handle of the table entry `index`: `index + 1`, 32 bits (R95). -/
def lineHandle (index : Nat) : ResultValue := BitVec.ofNat 32 (index + 1)

/-- The four values of a descriptor's `mode` field (R93). -/
inductive DescMode where
  | none | gpio | spiSw | reserved
  deriving DecidableEq, Repr

/-- A descriptor's mode, bits [1:0] (R93). -/
def descMode (d : Desc) : DescMode :=
  if d.extractLsb' 0 2 = 0#2 then .none
  else if d.extractLsb' 0 2 = 1#2 then .gpio
  else if d.extractLsb' 0 2 = 2#2 then .spiSw
  else .reserved

/-- A descriptor's SPI handle, bits [3:2] (R93). -/
def descSpi (d : Desc) : SpiHandle := d.extractLsb' 2 2
/-- A descriptor's must-be-zero field, bits [7:4] (R93). -/
def descMbz (d : Desc) : BitVec 4 := d.extractLsb' 4 4
/-- A descriptor's shift-clock line, bits [15:8] (R93). -/
def descSrclk (d : Desc) : LineId := d.extractLsb' 8 8
/-- A descriptor's storage-clock line, bits [23:16] (R93). -/
def descRclk (d : Desc) : LineId := d.extractLsb' 16 8
/-- A descriptor's data line, bits [31:24] (R93). -/
def descSer (d : Desc) : LineId := d.extractLsb' 24 8

/-- The null instance, the handle a failed creation returns (R93). -/
def nullDesc : Desc := 0#32

/-- What a well-formed descriptor says: the backend and the lines it drives (R93). -/
inductive Inst where
  /-- Mode `GPIO`: the three lines of the cascade. -/
  | gpio (srclk rclk ser : LineId)
  /-- Mode `SPI_SW`: the peripheral and the storage-clock line. -/
  | spiSw (h : SpiHandle) (rclk : LineId)
  deriving DecidableEq, Repr

/-- The descriptor of an instance: `ser ++ rclk ++ srclk ++ 0b0000 ++ spi ++ mode`, unused fields 0 (R93, R141, R142). -/
def Inst.desc : Inst → Desc
  | .gpio srclk rclk ser => ser ++ rclk ++ srclk ++ 0#4 ++ 0#2 ++ 1#2
  | .spiSw h rclk => 0#8 ++ rclk ++ 0#8 ++ 0#4 ++ h ++ 2#2

/-- The storage-clock line of an instance (R93). -/
def Inst.rclk : Inst → LineId
  | .gpio _ rclk _ => rclk
  | .spiSw _ rclk => rclk

/-- The lines the block drives for an instance (R145, R152). -/
def Inst.lines : Inst → List LineId
  | .gpio srclk rclk ser => [srclk, rclk, ser]
  | .spiSw _ rclk => [rclk]

/-- A descriptor taken apart: some instance exactly when it is well-formed (R94), `none` for the null descriptor and every
other ill-formed word. -/
def instOf (d : Desc) : Option Inst :=
  if d = nullDesc then none
  else if descMbz d ≠ 0#4 then none
  else match descMode d with
    | .gpio => if descSpi d = 0#2 then some (.gpio (descSrclk d) (descRclk d) (descSer d)) else none
    | .spiSw =>
      if descSpi d ≠ 0#2 ∧ descSrclk d = 0#8 ∧ descSer d = 0#8 then some (.spiSw (descSpi d) (descRclk d)) else none
    | .none => none
    | .reserved => none

end Sys2Proof.Machine
end

