-- ==== Sys2Proof/Syntax.lean ====
section
/-! DEFINITION. The thirteen operations of the DBSR block, one constructor per row of spec/opcode_table.json, with the operands
that 30_encoding.md rules R81 to R92 give each, in the order of the textual form (R101). -/

namespace Sys2Proof

/-- An operation with its fields. -/
inductive Instr where
  /-- `DB_INIT tim, ms` (R82, R111). -/
  | dbInit (tim : TimerHandle) (ms : Millis)
  /-- `DB_REGISTER port, pin, level, cb` (R83, R114). -/
  | dbRegister (port : PortNum) (pin : PinMask) (level : Level) (cb : CallbackId)
  /-- `DB_EDGE mask` (R84, R117). -/
  | dbEdge (mask : PinMask)
  /-- `DB_SETTLE` (R81, R120). -/
  | dbSettle
  /-- `TIM_TICK` (R81, R126). -/
  | timTick
  /-- `SR_CREATE_GPIO srclk, rclk, ser` (R85, R141). -/
  | srCreateGpio (srclk rclk ser : LineId)
  /-- `SR_CREATE_SPI spi, rclk` (R86, R142). -/
  | srCreateSpi (spi : SpiHandle) (rclk : LineId)
  /-- `SR_WRITE inst, addr, len` (R87, R145). -/
  | srWrite (inst : Desc) (addr : Addr) (len : Len)
  /-- `SR_COMPLETE spi` (R88, R152). -/
  | srComplete (spi : SpiHandle)
  /-- `SPI_BYTE spi` (R88, R157). -/
  | spiByte (spi : SpiHandle)
  /-- `SPI_FAIL spi` (R88, R158). -/
  | spiFail (spi : SpiHandle)
  /-- `ENV_LEVEL line, level` (R89, R170). -/
  | envLevel (line : LineId) (level : Level)
  /-- `ENV_STORE addr, val` (R90, R171). -/
  | envStore (addr : Addr) (val : Byte)
  deriving DecidableEq, Repr

end Sys2Proof
end

