-- ==== Sys2Proof/WellFormed.lean ====
section
/-! DEFINITION. Which terms of `Instr` are operations of the block. Every field has exactly its encoded width, so one check is
left: the pin of a `DB_REGISTER` is one-hot (30_encoding.md rules R98 (c), R99). -/

namespace Sys2Proof

/-- The operation is legal: every field value is, but for a `DB_REGISTER` pin that is not one-hot (R98, R99). -/
def wellFormed : Instr → Bool
  | .dbRegister _ pin _ _ => Machine.popcount pin == 1
  | .dbInit _ _ | .dbEdge _ | .dbSettle | .timTick | .srCreateGpio _ _ _ | .srCreateSpi _ _ | .srWrite _ _ _
  | .srComplete _ | .spiByte _ | .spiFail _ | .envLevel _ _ | .envStore _ _ => true

/-- The same as a proposition. -/
abbrev WellFormed (i : Instr) : Prop := wellFormed i = true

end Sys2Proof
end

