-- ==== Sys2Proof/Decode.lean ====
section
/-! DEFINITION. Decoding an operation word (30_encoding.md rules R80 to R92, R98, R100), total and rejecting by name; then the
encoder, written from the same tables; then words as bytes (20_memory.md rule R64). -/

namespace Sys2Proof

/-- The thirteen operations of the opcode map (R91). -/
inductive Op where
  | dbInit | dbRegister | dbEdge | dbSettle | timTick | srCreateGpio | srCreateSpi | srWrite | srComplete | spiByte | spiFail
  | envLevel | envStore
  deriving DecidableEq, Repr

/-- The ten formats of an operation word (R81 to R90). -/
inductive Format where
  | Z | T | R | M | G | S | W | H | L | B
  deriving DecidableEq, Repr

/-- Why a word is no legal operation word (R98 (a), (b), (c)). -/
inductive IllegalWord where
  /-- (a) The opcode is none of the thirteen. -/
  | unassignedOpcode
  /-- (b) A must-be-zero bit of the format is 1. -/
  | mustBeZeroSet
  /-- (c) A `DB_REGISTER` whose pin is not one-hot. -/
  | pinNotOneHot
  deriving DecidableEq, Repr

/-- The rows of the opcode map, in its order (R91). -/
def Op.all : List Op :=
  [.dbInit, .dbRegister, .dbEdge, .dbSettle, .timTick, .srCreateGpio, .srCreateSpi, .srWrite, .srComplete, .spiByte, .spiFail,
   .envLevel, .envStore]

/-- The opcode byte of an operation (R91). -/
def Op.code : Op → Byte
  | .dbInit => 0x01#8
  | .dbRegister => 0x02#8
  | .dbEdge => 0x10#8
  | .dbSettle => 0x11#8
  | .timTick => 0x12#8
  | .srCreateGpio => 0x20#8
  | .srCreateSpi => 0x21#8
  | .srWrite => 0x22#8
  | .srComplete => 0x30#8
  | .spiByte => 0x31#8
  | .spiFail => 0x32#8
  | .envLevel => 0xE0#8
  | .envStore => 0xE1#8

/-- The mnemonic of an operation (R91). -/
def Op.mnemonic : Op → String
  | .dbInit => "DB_INIT"
  | .dbRegister => "DB_REGISTER"
  | .dbEdge => "DB_EDGE"
  | .dbSettle => "DB_SETTLE"
  | .timTick => "TIM_TICK"
  | .srCreateGpio => "SR_CREATE_GPIO"
  | .srCreateSpi => "SR_CREATE_SPI"
  | .srWrite => "SR_WRITE"
  | .srComplete => "SR_COMPLETE"
  | .spiByte => "SPI_BYTE"
  | .spiFail => "SPI_FAIL"
  | .envLevel => "ENV_LEVEL"
  | .envStore => "ENV_STORE"

/-- The format of an operation (R91). -/
def Op.format : Op → Format
  | .dbInit => .T
  | .dbRegister => .R
  | .dbEdge => .M
  | .dbSettle => .Z
  | .timTick => .Z
  | .srCreateGpio => .G
  | .srCreateSpi => .S
  | .srWrite => .W
  | .srComplete => .H
  | .spiByte => .H
  | .spiFail => .H
  | .envLevel => .L
  | .envStore => .B

/-- The must-be-zero mask of a format (R100). -/
def Format.mbz : Format → Word64
  | .Z => 0xFFFFFFFFFFFFFF00#64
  | .T => 0xFFFFFFFF0000FC00#64
  | .R => 0xFFFF00FE0000F000#64
  | .M => 0xFFFFFFFF0000FF00#64
  | .G => 0xFFFFFFFF00000000#64
  | .S => 0xFFFFFFFFFF00FC00#64
  | .W => 0x0000000000000000#64
  | .H => 0xFFFFFFFFFFFFFC00#64
  | .L => 0xFFFFFFFFFFFE0000#64
  | .B => 0xFFFFFFFF00000000#64

/-- The operation with a given opcode byte (R91, R100). -/
def Op.ofCode (b : Byte) : Option Op := Op.all.find? (fun o => o.code == b)

/-- The field of `w` of `len` bits whose lowest bit is bit `lo`: `w[lo+len-1:lo]` (R7). -/
def field (w : Word64) (lo len : Nat) : BitVec len := w.extractLsb' lo len

/-- The operation of an opcode with the fields its format places in `w` (R81 to R92). -/
def Op.extract (w : Word64) : Op → Instr
  | .dbInit => .dbInit (field w 8 2) (field w 16 16)
  | .dbRegister => .dbRegister (field w 8 4) (field w 16 16) (w.getLsbD 32) (field w 40 8)
  | .dbEdge => .dbEdge (field w 16 16)
  | .dbSettle => .dbSettle
  | .timTick => .timTick
  | .srCreateGpio => .srCreateGpio (field w 8 8) (field w 16 8) (field w 24 8)
  | .srCreateSpi => .srCreateSpi (field w 8 2) (field w 16 8)
  | .srWrite => .srWrite (field w 32 32) (field w 16 16) (field w 8 8)
  | .srComplete => .srComplete (field w 8 2)
  | .spiByte => .spiByte (field w 8 2)
  | .spiFail => .spiFail (field w 8 2)
  | .envLevel => .envLevel (field w 8 8) (w.getLsbD 16)
  | .envStore => .envStore (field w 16 16) (field w 8 8)

/-- The decoding procedure (R100). -/
def decode (w : Word64) : Except IllegalWord Instr :=
  match Op.ofCode (field w 0 8) with
  | none => .error .unassignedOpcode
  | some op =>
    if w &&& op.format.mbz ≠ 0#64 then .error .mustBeZeroSet
    else if wellFormed (op.extract w) then .ok (op.extract w)
    else .error .pinNotOneHot

/-- The operation word of an operation: its fields at the places of its format, every other bit 0 (R81 to R91). -/
def encode : Instr → Word64
  | .dbInit tim ms => 0#32 ++ ms ++ 0#6 ++ tim ++ 0x01#8
  | .dbRegister port pin level cb => 0#16 ++ cb ++ 0#7 ++ BitVec.ofBool level ++ pin ++ 0#4 ++ port ++ 0x02#8
  | .dbEdge mask => 0#32 ++ mask ++ 0#8 ++ 0x10#8
  | .dbSettle => 0#56 ++ 0x11#8
  | .timTick => 0#56 ++ 0x12#8
  | .srCreateGpio srclk rclk ser => 0#32 ++ ser ++ rclk ++ srclk ++ 0x20#8
  | .srCreateSpi spi rclk => 0#40 ++ rclk ++ 0#6 ++ spi ++ 0x21#8
  | .srWrite inst addr len => inst ++ addr ++ len ++ 0x22#8
  | .srComplete spi => 0#54 ++ spi ++ 0x30#8
  | .spiByte spi => 0#54 ++ spi ++ 0x31#8
  | .spiFail spi => 0#54 ++ spi ++ 0x32#8
  | .envLevel line level => 0#47 ++ BitVec.ofBool level ++ line ++ 0xE0#8
  | .envStore addr val => 0#32 ++ addr ++ val ++ 0xE1#8

/-- Which operation an instruction is. -/
def Instr.op : Instr → Op
  | .dbInit _ _ => .dbInit
  | .dbRegister _ _ _ _ => .dbRegister
  | .dbEdge _ => .dbEdge
  | .dbSettle => .dbSettle
  | .timTick => .timTick
  | .srCreateGpio _ _ _ => .srCreateGpio
  | .srCreateSpi _ _ => .srCreateSpi
  | .srWrite _ _ _ => .srWrite
  | .srComplete _ => .srComplete
  | .spiByte _ => .spiByte
  | .spiFail _ => .spiFail
  | .envLevel _ _ => .envLevel
  | .envStore _ _ => .envStore

/-- Byte `Bn` of a 64-bit word, `v[8n+7:8n]` (R7). -/
def byteOf (v : Word64) (n : Nat) : Byte := v.extractLsb' (8 * n) 8

/-- A word written as bytes, little-endian: `B0` first, `B7` last (R64). -/
def bytesOfWord (v : Word64) : List Byte :=
  [byteOf v 0, byteOf v 1, byteOf v 2, byteOf v 3, byteOf v 4, byteOf v 5, byteOf v 6, byteOf v 7]

/-- The first word of a file of bytes and the bytes after it; `none` where fewer than eight are left (R64). -/
def takeWord : List Byte → Option (Word64 × List Byte)
  | b0 :: b1 :: b2 :: b3 :: b4 :: b5 :: b6 :: b7 :: rest => some (b7 ++ b6 ++ b5 ++ b4 ++ b3 ++ b2 ++ b1 ++ b0, rest)
  | _ => none

/-- The words of a file of stimulus, in order; a last part of fewer than eight bytes is no word (R64, assumption log entry 15). -/
def wordsOfBytes : List Byte → List Word64
  | b0 :: b1 :: b2 :: b3 :: b4 :: b5 :: b6 :: b7 :: rest => (b7 ++ b6 ++ b5 ++ b4 ++ b3 ++ b2 ++ b1 ++ b0) :: wordsOfBytes rest
  | _ => []

/-- Decoding the first word of a list of bytes, with the bytes after it; `none` where no whole word is left (R64, R100). -/
def decodeBytes (bs : List Byte) : Option (Except IllegalWord Instr × List Byte) :=
  match takeWord bs with
  | none => none
  | some (w, rest) => some (decode w, rest)

/-- What the decoder reads from an instruction whose lowest `nbits` bits are `w` and whose other bits are 0, laid out as the
bytes of one operation word. -/
def decodeTableWord (nbits w : Nat) : Option Instr :=
  match decodeBytes (bytesOfWord (BitVec.ofNat 64 (w % 2 ^ nbits))) with
  | some (.ok i, _) => some i
  | some (.error _, _) => none
  | none => none

end Sys2Proof
end

