-- ==== Sys2Proof/Config.lean ====
section
/-! DEFINITION. The implementation parameters of 00_scope.md rule R6 that are not widths, and the free values of the cascade
observer: constants without a body, so that no proof can know what they are (assumption log entries 11 and 12). -/

namespace Sys2Proof.Config

/-- `DB_CAPACITY`: most lines the debounce registry holds (R6). -/
def dbCapacity : Nat := 16
/-- `SPI_REG_CAPACITY`: most entries of the SPI instance registry (R6). -/
def spiRegCapacity : Nat := 3
/-- `TICK`: the time one `TIM_TICK` stands for, in microseconds: 0.1 ms (R6). -/
def tickMicroseconds : Nat := 100
/-- `TICKS_PER_MS`: `TIM_TICK` steps per millisecond (R6). -/
def ticksPerMs : Nat := 10

/-- What a cascade's shift stages hold (`w` bits) after an edge of the shift clock that the observer cannot vouch for (R175):
a free value, drawn afresh for every length of the trace `n` and place `k` of the cascade in the observer's list. -/
opaque unvouchedChain (w n k : Nat) : BitVec w
/-- The level of an undriven data line at a shift (R42: "a model must not assume 0"): a free value, drawn as above. -/
opaque undrivenLevel (n k : Nat) : Bool
/-- What the shift stages of a cascade that shares a line hold (U11: "any value"): a free value, drawn as above. -/
opaque sharedChain (w n k : Nat) : BitVec w
/-- What the storage stages of a cascade that shares a line hold (U11: "any value"): a free value, drawn as above. -/
opaque sharedOutputs (w n k : Nat) : BitVec w

end Sys2Proof.Config
end

