-- ==== Sys2Proof/Machine/State.lean ====
section
/-! DEFINITION. The state of the DBSR block (10_state.md), the launch parameters, and the state right after reset
(70_reset_and_hazards.md rules R220 to R222). Plain data: no field is a function. -/

namespace Sys2Proof.Machine

/-- A map from numbers below a bound to values, with a default for what is not listed: the listed pairs, in one canonical form
(keys strictly rising, no pair that holds the default; `Sparse.wf`). -/
abbrev Sparse (α : Type) := List (Nat × α)

/-- Buffer memory: 65536 bytes (R61), as cells; an unlisted address reads as `unlistedByte`. -/
abbrev Memory := List Host.Cell

/-- What a byte of memory that nothing has listed reads as. DESIGN CHOICE, unsafe: the spec gives `mem` no reset value (R40, R222);
assumption log entry 5. -/
def unlistedByte : Byte := 0x00#8

/-- What an input line that nothing has listed reads as. DESIGN CHOICE, unsafe: the spec gives `gpio_in` no reset value (R41, R222);
assumption log entry 9. -/
def unlistedLevel : Level := false

/-- One entry of the line table, a Monitored Line (R30). -/
structure LineEntry where
  port : PortNum
  pin : PinMask
  lastState : Level
  cb : CallbackId
  deriving DecidableEq, Repr

/-- One entry of the SPI instance registry (R33). -/
structure SpiRegEntry where
  h : SpiHandle
  inst : Desc
  deriving DecidableEq, Repr

/-- The transfer state of one SPI peripheral (R34). -/
structure SpiPeriph where
  busy : Bool
  addr : Addr
  len : Len
  idx : Len
  deriving DecidableEq, Repr

/-- The events of the output trace (R11). -/
inductive Event where
  /-- `W(ln, v)`: the line `ln` driven to level `v`. -/
  | w (ln : LineId) (v : Level)
  /-- `CB(cb, v)`: the callback `cb` invoked with level `v`. -/
  | cb (id : CallbackId) (v : Level)
  /-- `SEND(h, addr, len)`: a buffer handed to peripheral `h`. -/
  | send (h : SpiHandle) (addr : Addr) (len : Len)
  /-- `TX(h, b)`: peripheral `h` put byte `b` on its bus, bit 7 first. -/
  | tx (h : SpiHandle) (b : Byte)
  deriving DecidableEq, Repr

/-- Where the observer of a cascade is attached (R174). -/
inductive Tap where
  /-- A GPIO-observed cascade. -/
  | gpio (srclk rclk ser : LineId)
  /-- An SPI-observed cascade. -/
  | spi (h : SpiHandle) (rclk : LineId)
  deriving DecidableEq, Repr

/-- An observed cascade of `chips` chained 8-bit chips: its shift stages and its storage stages (R174). -/
structure Cascade where
  tap : Tap
  chips : Nat
  chain : BitVec (8 * chips)
  outputs : BitVec (8 * chips)
  /-- The MODEL's: an instance that is not this cascade's own has one of its lines, from here on (R232, U11; assumption log
  entry 12). The block keeps no list of instances, so the observer remembers it. -/
  shared : Bool
  deriving DecidableEq, Repr

/-- The draws of one step, the free answers of the collaborators (R38). -/
structure Draws where
  /-- `tim_cfg_err`. -/
  timCfgErr : ErrCode
  /-- `spi_send_err[h]` for h = 1, 2, 3. -/
  spiSendErr : Vector ErrCode 3
  deriving DecidableEq, Repr

/-- One item of the stimulus stream: an operation word and the draws of the step that processes it (R5, R38, R49). -/
structure Input where
  word : Word64
  draws : Draws
  deriving DecidableEq, Repr

/-- The state. -/
@[ext]
structure State where
  /-- `db_init` (R23). -/
  dbInit : Bool
  /-- `db_tim` (R24). -/
  dbTim : TimerHandle
  /-- `db_period` (R25). -/
  dbPeriod : Ticks
  /-- `tim_run` (R26): Armed is 1, Idle is 0 (R21). -/
  timRun : Bool
  /-- `tim_cnt` (R27). -/
  timCnt : Ticks
  /-- `db_count` (R28). -/
  dbCount : BitVec 5
  /-- `db_mask` (R29). -/
  dbMask : PinMask
  /-- `line[0..15]` (R30). -/
  line : Vector LineEntry 16
  /-- `spi_reg_count` (R32). -/
  spiRegCount : BitVec 2
  /-- `spi_reg[0..2]` (R33). -/
  spiReg : Vector SpiRegEntry 3
  /-- `spi_busy[h]`, `spi_addr[h]`, `spi_len[h]`, `spi_idx[h]` for h = 1, 2, 3 (R34). -/
  spi : Vector SpiPeriph 3
  /-- `EXTI_IMR` (R35). -/
  extiImr : PinMask
  /-- `EXTI_PORTSEL[0..15]` (R36). -/
  extiPortsel : Vector PortNum 16
  /-- `SPI_CFG[h]` for h = 1, 2, 3 (R37). -/
  spiCfg : Vector (BitVec 7) 3
  /-- `mem` (R40, R61). -/
  mem : Memory
  /-- `gpio_in` (R41): the lines whose level is not `unlistedLevel`. -/
  gpioIn : Sparse Level
  /-- `gpio_out` (R42): the lines the block has driven; a line not listed is undriven. -/
  gpioOut : Sparse (Option Level)
  /-- `out_trace` (R43), the oldest event first. -/
  outTrace : List Event
  /-- `chain[c]` and `outputs[c]` of the observed cascades (R44, R174). -/
  cascades : List Cascade
  /-- The MODEL's: the stimulus stream still to be delivered (R5, R49; assumption log entry 1). -/
  stim : List Input
  /-- The MODEL's: the draws of the present step (R38; assumption log entry 2). -/
  draws : Draws
  /-- The MODEL's: the result word of the latest step, if it produced one (R5, R96; assumption log entry 3). -/
  result : Option Word64
  deriving DecidableEq, Repr

/-- Why a step faults: never. "There are no thrown control-flow exceptions and no process aborts" (R190), so the type has no
constructor and nobody raises one: safe (assumption log entry 19). -/
inductive Fault where
  deriving DecidableEq, Repr

/-- Why a step is refused. -/
inductive Refusal where
  /-- Raised by an arm of `exec` whose instruction has no meaning yet: none has it now. Safe: the model stops. -/
  | notModelled (mnemonic : String)
  deriving DecidableEq, Repr

/-- The launch parameters: the environment's part of the start state, which no rule fixes (R48, R222). -/
structure Launch where
  extiImr : PinMask
  extiPortsel : Vector PortNum 16
  spiCfg : Vector (BitVec 7) 3
  mem : Memory
  gpioIn : Sparse Level
  cascades : List Cascade
  deriving DecidableEq, Repr

/-- An entry of the line table with every field 0 (R48). -/
def LineEntry.zero : LineEntry := { port := 0#4, pin := 0#16, lastState := false, cb := 0#8 }
/-- A registry entry with every field 0 (R48). -/
def SpiRegEntry.zero : SpiRegEntry := { h := 0#2, inst := 0#32 }
/-- An idle peripheral with every field 0 (R48). -/
def SpiPeriph.idle : SpiPeriph := { busy := false, addr := 0#16, len := 0#8, idx := 0#8 }
/-- Every collaborator accepts: the draws the test vectors take where they name none (95_test_vectors.md, Conventions). -/
def Draws.accept : Draws := { timCfgErr := 0#8, spiSendErr := Vector.replicate 3 0#8 }

/-- The state right after reset, for given launch parameters (R220, R221, R222). -/
def State.atReset (p : Launch) : State where
  dbInit := false
  dbTim := 0#2
  dbPeriod := 0#20
  timRun := false
  timCnt := 0#20
  dbCount := 0#5
  dbMask := 0x0000#16
  line := Vector.replicate 16 LineEntry.zero
  spiRegCount := 0#2
  spiReg := Vector.replicate 3 SpiRegEntry.zero
  spi := Vector.replicate 3 SpiPeriph.idle
  extiImr := p.extiImr
  extiPortsel := p.extiPortsel
  spiCfg := p.spiCfg
  mem := p.mem
  gpioIn := p.gpioIn
  gpioOut := []
  outTrace := []
  cascades := p.cascades
  stim := []
  draws := Draws.accept
  result := none

/-- The launch parameters the model names for `State.reset`. DESIGN CHOICE, unsafe: the spec leaves every one of them open
(R222); assumption log entries 5 to 10. -/
def Launch.named : Launch where
  extiImr := 0x0000#16
  extiPortsel := Vector.replicate 16 0#4
  spiCfg := Vector.replicate 3 0x03#7
  mem := []
  gpioIn := []
  cascades := []

/-- The machine right after reset, with the launch parameters the model names. -/
def State.reset : State := State.atReset Launch.named

end Sys2Proof.Machine
end

