-- ==== Sys2Proof/Machine/Flags.lean ====
section
/-! DEFINITION. The status codes and the result word (30_encoding.md rules R96, R97), how a step ends with or without one, and the
timer's flag `tim_run` with the two states of the debounce state machine (10_state.md rules R21, R22, R26). -/

namespace Sys2Proof.Machine

/-- The statuses (R97). -/
inductive Status where
  | ok | capacity | misconfig | invalidArg | periphError | illegal
  deriving DecidableEq, Repr

/-- The code of a status (R97). -/
def Status.code : Status → Byte
  | .ok => 0x00#8
  | .capacity => 0x01#8
  | .misconfig => 0x02#8
  | .invalidArg => 0x03#8
  | .periphError => 0x04#8
  | .illegal => 0x7F#8

/-- `PE_ERROR`: the collaborator rejects the request (R97). -/
def peError : ErrCode := 0x01#8
/-- `PE_BUSY`: the SPI peripheral has a transfer in flight (R97). -/
def peBusy : ErrCode := 0x02#8

/-- The result word: value in [63:32], zero in [31:8], status in [7:0] (R96). -/
def resultWord (st : Status) (val : ResultValue) : Word64 := val ++ 0#24 ++ st.code

/-- The status byte of a result word (R96). -/
def resultStatus (r : Word64) : Byte := r.extractLsb' 0 8
/-- The value of a result word (R96). -/
def resultValue (r : Word64) : ResultValue := r.extractLsb' 32 32

/-- `return (st, val)`: the step ends and produces its result word (R8, R96). -/
def State.ret (s : State) (st : Status) (val : ResultValue) : State := { s with result := some (resultWord st val) }

/-- `return (PERIPH_ERROR, e)`: the collaborator's code, zero-extended (R97, R194). -/
def State.retPeriphError (s : State) (e : ErrCode) : State := s.ret .periphError (e.setWidth 32)

/-- `done`: the step ends and produces no result word (R8, R96). -/
def State.done (s : State) : State := { s with result := none }

/-- The two states of the debounce state machine (R21, R125). -/
inductive DebounceMode where
  | idle | armed
  deriving DecidableEq, Repr

/-- Armed exactly when `tim_run` = 1 (R21). -/
def State.debounceMode (s : State) : DebounceMode := if s.timRun then .armed else .idle

/-- The timer stops: `tim_run <- 0` (R26, R180). -/
def State.timerStop (s : State) : State := { s with timRun := false }
/-- The timer starts: `tim_run <- 1` (R26, R180). -/
def State.timerStart (s : State) : State := { s with timRun := true }
/-- The timer's counter is set: `tim_cnt <- n` (R27, R180). -/
def State.timerCount (s : State) (n : Ticks) : State := { s with timCnt := n }

end Sys2Proof.Machine
end

