-- ==== Sys2Proof/Machine/Observer.lean ====
section
/-! DEFINITION. The cascade observer (42_environment.md rules R174 to R177): what an event of the trace does to the shift and storage
stages of an observed cascade, and what becomes of them when lines are shared (70_reset_and_hazards.md rule R232,
93_implementation_defined.md U11). The block never reads what stands here. -/

namespace Sys2Proof.Machine

/-- What a sparse map holds at `a`, the default where nothing is listed. -/
def Sparse.get {α : Type} (d : α) : Sparse α → Nat → α
  | [], _ => d
  | (k, v) :: m, a => if k = a then v else Sparse.get d m a

/-- The level the block last drove on a line, `none` for a line it has not driven since reset (R42). -/
def drivenLevel (out : Sparse (Option Level)) (ln : LineId) : Option Level := Sparse.get none out ln.toNat

/-- The storage-clock line of a cascade (R174). -/
def Tap.rclk : Tap → LineId
  | .gpio _ rclk _ => rclk
  | .spi _ rclk => rclk

/-- The GPIO lines of a cascade (R174). -/
def Tap.lines : Tap → List LineId
  | .gpio srclk rclk ser => [srclk, rclk, ser]
  | .spi _ rclk => [rclk]

/-- One bit shifted in: `chain <- (chain << 1 | b) mod 2^(8N)` (R175). -/
def Cascade.shiftBit (c : Cascade) (b : Level) : Cascade := { c with chain := c.chain <<< 1 ||| BitVec.ofNat _ b.toNat }

/-- Eight bits shifted in, bit 7 first: `chain <- (chain << 8 | b) mod 2^(8N)` (R176). -/
def Cascade.shiftByte (c : Cascade) (b : Byte) : Cascade := { c with chain := c.chain <<< 8 ||| b.setWidth _ }

/-- The storage stages take what the shift stages hold: `outputs <- chain` (R177). -/
def Cascade.latch (c : Cascade) : Cascade := { c with outputs := c.chain }

/-- The shift clock is driven high (R175): a shift where the level before was 0, with the data line's level (a free value where it
is undriven); where the level before was 1 or undriven, shift stages the observer cannot vouch for, a free value.
`n` and `k` index the free values. -/
def Cascade.shiftClockHigh (out : Sparse (Option Level)) (srclk ser : LineId) (n k : Nat) (c : Cascade) : Cascade :=
  match drivenLevel out srclk with
  | some false =>
    match drivenLevel out ser with
    | some b => c.shiftBit b
    | none => c.shiftBit (Config.undrivenLevel n k)
  | some true => { c with chain := Config.unvouchedChain _ n k }
  | none => { c with chain := Config.unvouchedChain _ n k }

/-- The storage clock is driven high (R177): a latch exactly where the level before was 0. -/
def Cascade.storageClockHigh (out : Sparse (Option Level)) (rclk : LineId) (c : Cascade) : Cascade :=
  match drivenLevel out rclk with
  | some false => c.latch
  | some true => c
  | none => c

/-- What the event `W(ln, v)` does to a cascade, `out` being the driven levels before it (R175, R177). -/
def Cascade.onDrive (out : Sparse (Option Level)) (ln : LineId) (v : Level) (n k : Nat) (c : Cascade) : Cascade :=
  if v = false then c
  else match c.tap with
    | .gpio srclk rclk ser =>
      if ln = srclk then c.shiftClockHigh out srclk ser n k
      else if ln = rclk then c.storageClockHigh out rclk
      else c
    | .spi _ rclk => if ln = rclk then c.storageClockHigh out rclk else c

/-- What the event `TX(h, b)` does to a cascade (R176). -/
def Cascade.onTransmit (h : SpiHandle) (b : Byte) (c : Cascade) : Cascade :=
  match c.tap with
  | .gpio _ _ _ => c
  | .spi h' _ => if h = h' then c.shiftByte b else c

/-- Every observed cascade sees the event `W(ln, v)`; `k` is the place of the first of them in the list. -/
def observeDrive (out : Sparse (Option Level)) (ln : LineId) (v : Level) (n : Nat) : Nat → List Cascade → List Cascade
  | _, [] => []
  | k, c :: cs => c.onDrive out ln v n k :: observeDrive out ln v n (k + 1) cs

/-- Two lists of lines have one in common. -/
def meets (xs ys : List LineId) : Bool := xs.any (fun x => ys.contains x)

/-- The instance whose writes this cascade shows: the same lines, or the same peripheral and storage clock (R177). -/
def Cascade.shows (c : Cascade) (i : Inst) : Bool :=
  match c.tap, i with
  | .gpio a b d, .gpio a' b' d' => a == a' && b == b' && d == d'
  | .spi h r, .spiSw h' r' => h == h' && r == r'
  | .gpio _ _ _, .spiSw _ _ => false
  | .spi _ _, .gpio _ _ _ => false

/-- The lines of a cascade are distinct, as the observer requires (R174). -/
def Cascade.distinct (c : Cascade) : Bool :=
  match c.tap with
  | .gpio a b d => a != b && a != d && b != d
  | .spi _ _ => true

/-- The lines registered as buttons (R30, R92). -/
def State.buttonLines (s : State) : List LineId :=
  (s.line.toList.take s.dbCount.toNat).map (fun e => lineOf e.port e.pin)

/-- The instances of the SPI registry (R33). -/
def State.registeredInsts (s : State) : List Inst :=
  (s.spiReg.toList.take s.spiRegCount.toNat).map (fun e => .spiSw (descSpi e.inst) (descRclk e.inst))

/-- The cascade shares a line: with itself, with an instance that is not its own (`shared`), with a button, with a registered
instance it does not show, or with another observed cascade (R232, U11; assumption log entry 12). -/
def State.sharesLine (s : State) (c : Cascade) : Bool :=
  c.shared || !c.distinct || meets s.buttonLines c.tap.lines
    || s.registeredInsts.any (fun i => meets i.lines c.tap.lines && !c.shows i)
    || s.cascades.any (fun d => (d.tap != c.tap || d.chips != c.chips) && meets d.tap.lines c.tap.lines)

/-- The instance `i` comes to be known to the observer: a cascade that has one of its lines and does not show it is shared. -/
def Cascade.meetInst (i : Inst) (c : Cascade) : Cascade :=
  if meets i.lines c.tap.lines && !c.shows i then { c with shared := true } else c

/-- Any value in both stages of the cascade at place `k` (U11): free values, drawn for the length of the trace `n`. -/
def Cascade.anyValue (n k : Nat) (c : Cascade) : Cascade :=
  { c with chain := Config.sharedChain _ n k, outputs := Config.sharedOutputs _ n k }

/-- Cascades of state `s` from place `k` on, those that share a line holding any value (U11). -/
def redrawFrom (s : State) (n : Nat) : Nat → List Cascade → List Cascade
  | _, [] => []
  | k, c :: cs => (if s.sharesLine c then c.anyValue n k else c) :: redrawFrom s n (k + 1) cs

/-- Every observed cascade that shares a line holds any value (R232, U11): the end of each step that lets an event be seen, and of
each that adds an instance or a button. -/
def State.redrawShared (s : State) : State := { s with cascades := redrawFrom s s.outTrace.length 0 s.cascades }

/-- The instance `i` has been created or written through (R232, U11). -/
def State.noteInst (s : State) (i : Inst) : State :=
  State.redrawShared { s with cascades := s.cascades.map (Cascade.meetInst i) }

end Sys2Proof.Machine
end

