-- ==== Sys2Proof/Machine/Ops.lean ====
section
/-! DEFINITION. The primitives of 00_scope.md rule R8 over memory, lines and trace (20_memory.md, 10_state.md), and the two handlers
as shared operations. The block has no exception to take: entering a handler saves nothing and changes no mode (60_exceptions.md
rule R202) and leaving it restores nothing (R203), so a handler is its own effect, `performSettle` and `performComplete`. -/

namespace Sys2Proof.Machine

/-! ## Sparse maps -/

/-- A map without what it lists at `a`. -/
def Sparse.erase {α : Type} (m : Sparse α) (a : Nat) : Sparse α := m.filter (fun c => c.1 != a)

/-- A pair put at its place in the order of keys, before the first larger key. -/
def Sparse.insert {α : Type} (a : Nat) (v : α) : Sparse α → Sparse α
  | [] => [(a, v)]
  | (k, w) :: m => if a < k then (a, v) :: (k, w) :: m else (k, w) :: Sparse.insert a v m

/-- The map with `v` at `a`; the default is not listed. -/
def Sparse.put {α : Type} [DecidableEq α] (d : α) (m : Sparse α) (a : Nat) (v : α) : Sparse α :=
  if v = d then m.erase a else (m.erase a).insert a v

/-- The canonical form from key `lo` on: keys strictly rising and below `bound`, no default listed. -/
def Sparse.wfFrom {α : Type} [DecidableEq α] (d : α) (bound : Nat) : Nat → Sparse α → Bool
  | _, [] => true
  | lo, (k, v) :: m => decide (lo ≤ k) && decide (k < bound) && decide (v ≠ d) && Sparse.wfFrom d bound (k + 1) m

/-- The canonical form of a map on the keys below `bound`. -/
def Sparse.wf {α : Type} [DecidableEq α] (d : α) (bound : Nat) (m : Sparse α) : Bool := Sparse.wfFrom d bound 0 m

/-! ## Buffer memory and lines -/

/-- The canonical form of buffer memory: addresses below 65536 (R61). -/
def Memory.wf (m : Memory) : Bool := Sparse.wf unlistedByte 65536 m

/-- `MemRead(addr, 1)` (R8, R61). -/
def memRead (m : Memory) (a : Addr) : Byte := Sparse.get unlistedByte m a.toNat

/-- `MemWrite(addr, 1, v)` (R8, R61). -/
def State.memWrite (s : State) (a : Addr) (v : Byte) : State := { s with mem := Sparse.put unlistedByte s.mem a.toNat v }

/-- `GpioRead(ln)`: the live input level of a line (R8, R41). -/
def gpioRead (m : Sparse Level) (ln : LineId) : Level := Sparse.get unlistedLevel m ln.toNat

/-- An input line takes a level: `gpio_in[ln] <- v` (R41, R170). -/
def State.setInput (s : State) (ln : LineId) (v : Level) : State :=
  { s with gpioIn := Sparse.put unlistedLevel s.gpioIn ln.toNat v }

/-- `GpioWrite(ln, v)`: the level is driven, then `W(ln, v)` is appended, once per call whatever the level was (R8); the observer sees
the event with the levels driven before it (R175, R177). -/
def State.gpioWrite (s : State) (ln : LineId) (v : Level) : State :=
  { s with
    gpioOut := Sparse.put none s.gpioOut ln.toNat (some v)
    outTrace := s.outTrace ++ [.w ln v]
    cascades := observeDrive s.gpioOut ln v s.outTrace.length 0 s.cascades }

/-- `Callback(cb, v)`: `CB(cb, v)` is appended; the body runs outside the block (R8, R206). -/
def State.callback (s : State) (cb : CallbackId) (v : Level) : State := { s with outTrace := s.outTrace ++ [.cb cb v] }

/-- `SEND(h, addr, len)` is appended (R11, R156). -/
def State.sendEvent (s : State) (h : SpiHandle) (addr : Addr) (len : Len) : State :=
  { s with outTrace := s.outTrace ++ [.send h addr len] }

/-- `TX(h, b)` is appended, and the observer of an SPI cascade shifts the byte in (R157, R176); one that shares a line holds any value
(U11). -/
def State.transmit (s : State) (h : SpiHandle) (b : Byte) : State :=
  State.redrawShared { s with outTrace := s.outTrace ++ [.tx h b], cascades := s.cascades.map (Cascade.onTransmit h b) }

/-! ## SPI peripherals -/

/-- The transfer state of peripheral `h`; handle 0 has no peripheral (R34). -/
def State.periph (s : State) (h : SpiHandle) : Option SpiPeriph :=
  match h.toNat with
  | 0 => none
  | n + 1 => s.spi[n]?

/-- The transfer state of peripheral `h` is written; handle 0 has none to write (R34). -/
def State.setPeriph (s : State) (h : SpiHandle) (p : SpiPeriph) : State :=
  match h.toNat with
  | 0 => s
  | n + 1 => { s with spi := s.spi.setIfInBounds n p }

/-- `SPI_CFG[h]` (R37); handle 0 has none. -/
def State.spiCfgOf (s : State) (h : SpiHandle) : Option (BitVec 7) :=
  match h.toNat with
  | 0 => none
  | n + 1 => s.spiCfg[n]?

/-- The draw `spi_send_err[h]` of this step (R38); handle 0 has none and is never asked. -/
def State.spiSendDraw (s : State) (h : SpiHandle) : ErrCode :=
  match h.toNat with
  | 0 => peError
  | n + 1 => (s.draws.spiSendErr[n]?).getD peError

/-- `SpiSend(h, addr, len)`: busy before zero length before the draw (R156, R197). The code answered, 0 for accepted, and the
state. -/
def State.spiSend (s : State) (h : SpiHandle) (addr : Addr) (len : Len) : ErrCode × State :=
  match s.periph h with
  | none => (peError, s)
  | some p =>
    if p.busy then (peBusy, s)
    else if len = 0#8 then (peError, s)
    else if s.spiSendDraw h ≠ 0#8 then (s.spiSendDraw h, s)
    else (0#8, (s.setPeriph h { busy := true, addr := addr, len := len, idx := 0#8 }).sendEvent h addr len)

/-! ## Timer configuration -/

/-- `TimConfigure(tim, period)`: no effect on the block; the answer is the draw `tim_cfg_err` of this step (R113, R38). -/
def State.timConfigure (s : State) (_tim : TimerHandle) (_period : Ticks) : ErrCode := s.draws.timCfgErr

/-- The period of `ms` milliseconds in ticks: `10 * ms`, exact in 20 bits (R112). -/
def periodOf (ms : Millis) : Ticks := BitVec.ofNat 20 (Config.ticksPerMs * ms.toNat)

/-! ## The handlers -/

/-- `line[i].last_state <- v` (R30). -/
def State.setLastState (s : State) (i : Nat) (v : Level) : State :=
  match s.line[i]? with
  | none => s
  | some e => { s with line := s.line.setIfInBounds i { e with lastState := v } }

/-- The turn of entry `i` in the scan: the live level is read; where it differs from `last_state`, the callback is invoked with the
new level and `last_state` is written after it (R120, R123). -/
def State.scanLine (s : State) (i : Nat) : State :=
  match s.line[i]? with
  | none => s
  | some e =>
    if gpioRead s.gpioIn (lineOf e.port e.pin) ≠ e.lastState then
      (s.callback e.cb (gpioRead s.gpioIn (lineOf e.port e.pin))).setLastState i (gpioRead s.gpioIn (lineOf e.port e.pin))
    else s

/-- The scan of the first `n` entries in registration order, ascending (R121). -/
def State.scanLines (s : State) : Nat → State
  | 0 => s
  | n + 1 => (s.scanLines n).scanLine n

/-- `perform DB_SETTLE()`: stop first, then scan every registered line (R120). -/
def State.performSettle (s : State) : State := s.timerStop.scanLines s.dbCount.toNat

/-- The first meaningful registry entry from index `j` on whose `h` is the notifying handle, looking at `fuel` of them (R152, R154). -/
def State.ownerFrom (s : State) (h : SpiHandle) (j : Nat) : Nat → Option SpiRegEntry
  | 0 => none
  | fuel + 1 =>
    if j < s.spiRegCount.toNat then
      match s.spiReg[j]? with
      | none => none
      | some e => if e.h = h then some e else s.ownerFrom h (j + 1) fuel
    else none

/-- The owner of peripheral `h` (R154). -/
def State.owner (s : State) (h : SpiHandle) : Option SpiRegEntry := s.ownerFrom h 0 Config.spiRegCapacity

/-- `perform SR_COMPLETE(h)`: the owner's storage clock is driven low, then high; with no owner nothing happens (R152, R153). -/
def State.performComplete (s : State) (h : SpiHandle) : State :=
  match s.owner h with
  | none => s
  | some e =>
    ((s.gpioWrite (descRclk e.inst) false).gpioWrite (descRclk e.inst) true).redrawShared

end Sys2Proof.Machine
end

