-- ==== Sys2Proof/Machine/Debounce.lean ====
section
/-! DEFINITION. The operations of the Debounce unit (40_debounce.md): `DB_INIT`, `DB_REGISTER`, `DB_EDGE`, `DB_SETTLE`, `TIM_TICK`. -/

namespace Sys2Proof.Machine

/-- The step of an illegal word: no state changes, nothing is appended, the result is `ILLEGAL` (R98, R195). -/
def State.illegal (s : State) : State := s.ret .illegal 0#32

/-- `DB_INIT tim, ms` (R111): idempotent after a success; null handle before zero period before the collaborator's verdict (R197). -/
def execDbInit (tim : TimerHandle) (ms : Millis) (s : State) : Host.Outcome State Fault Refusal :=
  .next <|
    if s.dbInit then s.ret .ok 0#32
    else if tim = 0#2 then s.ret .invalidArg 0#32
    else if ms = 0#16 then s.retPeriphError peError
    else if s.timConfigure tim (periodOf ms) ≠ 0#8 then s.retPeriphError (s.timConfigure tim (periodOf ms))
    else
      State.ret { s with dbTim := tim, dbPeriod := periodOf ms, timRun := false, timCnt := 0#20, dbInit := true } .ok 0#32

/-- The registration check: the edge interrupt of the pin index is enabled and routed from the port (R115). -/
def State.lineConfigured (s : State) (port : PortNum) (pin : PinMask) : Bool :=
  s.extiImr.getLsbD (ctz pin).toNat && decide (s.extiPortsel[(ctz pin).toNat]? = some port)

/-- A new Monitored Line is appended at entry `db_count` (R114). -/
def State.appendLine (s : State) (e : LineEntry) : State :=
  { s with
    line := s.line.setIfInBounds s.dbCount.toNat e
    dbMask := s.dbMask ||| e.pin
    dbCount := s.dbCount + 1#5 }

/-- `DB_REGISTER port, pin, level, cb` (R114): capacity before misconfiguration (R197); a pin that is not one-hot makes the word
illegal (R98). A count above the capacity, which no run reaches, is full too (assumption log entry 14). -/
def execDbRegister (port : PortNum) (pin : PinMask) (level : Level) (cb : CallbackId) (s : State) :
    Host.Outcome State Fault Refusal :=
  .next <|
    if popcount pin ≠ 1 then s.illegal
    else if Config.dbCapacity ≤ s.dbCount.toNat then s.ret .capacity 0#32
    else if s.lineConfigured port pin = false then s.ret .misconfig 0#32
    else
      (s.appendLine { port := port, pin := pin, lastState := level, cb := cb }).redrawShared.ret .ok (lineHandle s.dbCount.toNat)

/-- `DB_EDGE mask` (R117): the filter before the handle check (R197); a qualifying edge stops the timer, sets its counter to zero and
restarts it. -/
def execDbEdge (mask : PinMask) (s : State) : Host.Outcome State Fault Refusal :=
  .next <|
    if mask &&& s.dbMask = 0#16 then s.ret .ok 0#32
    else if s.dbInit = false then s.ret .invalidArg 0#32
    else ((s.timerStop.timerCount 0#20).timerStart).ret .ok 0#32

/-- `DB_SETTLE` (R120), in whatever state the block is (R124). -/
def execDbSettle (s : State) : Host.Outcome State Fault Refusal := .next s.performSettle.done

/-- `TIM_TICK` (R126): while Armed the counter counts; on reaching the period it reloads and the handler runs in this step. -/
def execTimTick (s : State) : Host.Outcome State Fault Refusal :=
  .next <| State.done <|
    if s.timRun then
      if s.timCnt + 1#20 = s.dbPeriod then (s.timerCount 0#20).performSettle
      else s.timerCount (s.timCnt + 1#20)
    else s

end Sys2Proof.Machine
end

