-- ==== Sys2Proof/Machine/Environment.lean ====
section
/-! DEFINITION. The environment moves (42_environment.md): `ENV_LEVEL`, `ENV_STORE`. -/

namespace Sys2Proof.Machine

/-- `ENV_LEVEL line, level` (R170): the live level of an input line changes; the Debounce unit is not notified (R172). -/
def execEnvLevel (line : LineId) (level : Level) (s : State) : Host.Outcome State Fault Refusal :=
  .next (s.setInput line level).done

/-- `ENV_STORE addr, val` (R171): software stores one byte into buffer memory. -/
def execEnvStore (addr : Addr) (val : Byte) (s : State) : Host.Outcome State Fault Refusal :=
  .next (s.memWrite addr val).done

end Sys2Proof.Machine
end

