-- ==== Sys2Proof/Machine/ShiftRegister.lean ====
section
/-! DEFINITION. The operations of the Shift-register unit (41_shiftreg.md): `SR_CREATE_GPIO`, `SR_CREATE_SPI`, `SR_WRITE`,
`SR_COMPLETE`, and the SPI collaborator's steps `SPI_BYTE`, `SPI_FAIL`. -/

namespace Sys2Proof.Machine

/-- `SR_CREATE_GPIO srclk, rclk, ser` (R141): pure data assembly, always succeeds. Its lines are not checked: a cascade that has one of them and
is not the instance's own holds any value (U11), all else is as it was. -/
def execSrCreateGpio (srclk rclk ser : LineId) (s : State) : Host.Outcome State Fault Refusal :=
  .next ((s.noteInst (.gpio srclk rclk ser)).ret .ok (Inst.desc (.gpio srclk rclk ser)))

/-- The fields of an SPI configuration word, by bit (R37). -/
inductive SpiCfgField where
  | mstr | ssm | nfd | dff16 | cpha2 | lsbfirst | crcen
  deriving DecidableEq, Repr

/-- The bit of a configuration field (R37). -/
def SpiCfgField.bit : SpiCfgField → Nat
  | .mstr => 0
  | .ssm => 1
  | .nfd => 2
  | .dff16 => 3
  | .cpha2 => 4
  | .lsbfirst => 5
  | .crcen => 6

/-- The value the contract requires of a field: controller role and software slave-management, everything else clear (R37, R143). -/
def SpiCfgField.required : SpiCfgField → Bool
  | .mstr => true
  | .ssm => true
  | .nfd => false
  | .dff16 => false
  | .cpha2 => false
  | .lsbfirst => false
  | .crcen => false

/-- The one SPI configuration that satisfies the contract (R37, R143). -/
def spiContract : BitVec 7 := 0x03#7

/-- The pair (handle, descriptor) is appended at index `spi_reg_count` (R144). -/
def State.appendSpiReg (s : State) (e : SpiRegEntry) : State :=
  { s with
    spiReg := s.spiReg.setIfInBounds s.spiRegCount.toNat e
    spiRegCount := s.spiRegCount + 1#2 }

/-- `SR_CREATE_SPI spi, rclk` (R142): null handle before capacity before configuration (R197). -/
def execSrCreateSpi (spi : SpiHandle) (rclk : LineId) (s : State) : Host.Outcome State Fault Refusal :=
  .next <|
    if spi = 0#2 then s.ret .invalidArg 0#32
    else if Config.spiRegCapacity ≤ s.spiRegCount.toNat then s.ret .capacity 0#32
    else if s.spiCfgOf spi ≠ some spiContract then s.ret .misconfig 0#32
    else
      ((s.appendSpiReg { h := spi, inst := Inst.desc (.spiSw spi rclk) }).noteInst (.spiSw spi rclk)).ret .ok
        (Inst.desc (.spiSw spi rclk))

/-- One bit clocked out: shift clock low, data line to the bit, shift clock high (R147). -/
def State.clockBit (s : State) (srclk ser : LineId) (b : Level) : State :=
  ((s.gpioWrite srclk false).gpioWrite ser b).gpioWrite srclk true

/-- The bits of a byte in the order they leave: bit 7 first, bit 0 last (R63, R147). -/
def bitsOut (b : Byte) : List Level :=
  [b.getLsbD 7, b.getLsbD 6, b.getLsbD 5, b.getLsbD 4, b.getLsbD 3, b.getLsbD 2, b.getLsbD 1, b.getLsbD 0]

/-- One byte clocked out (R147). -/
def State.clockByte (s : State) (srclk ser : LineId) (b : Byte) : State :=
  (bitsOut b).foldl (fun t v => t.clockBit srclk ser v) s

/-- `n` bytes clocked out from address `a` on, ascending; addresses wrap modulo 65536 (R147, R68). -/
def State.clockBytes (srclk ser : LineId) : Nat → Addr → State → State
  | 0, _, s => s
  | n + 1, a, s => State.clockBytes srclk ser n (a + 1#16) (s.clockByte srclk ser (memRead s.mem a))

/-- `SR_WRITE inst, addr, len` (R145): an ill-formed descriptor touches nothing (R94, R150); step 1 opens the latch in both modes
(R146); then the bits are clocked out and latched (R147, R148), or the buffer is handed to the peripheral (R149). -/
def execSrWrite (inst : Desc) (addr : Addr) (len : Len) (s : State) : Host.Outcome State Fault Refusal :=
  .next <|
    match instOf inst with
    | none => s.ret .invalidArg 0#32
    | some (.gpio srclk rclk ser) =>
      (((State.clockBytes srclk ser len.toNat addr (s.gpioWrite rclk false)).gpioWrite rclk true).noteInst
        (.gpio srclk rclk ser)).ret .ok 0#32
    | some (.spiSw h rclk) =>
      match ((s.gpioWrite rclk false).noteInst (.spiSw h rclk)).spiSend h addr len with
      | (e, t) => if e ≠ 0#8 then t.retPeriphError e else t.ret .ok 0#32

/-- `SR_COMPLETE spi` (R152), in whatever state the block is (R153). -/
def execSrComplete (spi : SpiHandle) (s : State) : Host.Outcome State Fault Refusal := .next (s.performComplete spi).done

/-- `SPI_BYTE spi` (R157): the next byte is read and sent; the last one ends the transfer and performs the completion. -/
def execSpiByte (spi : SpiHandle) (s : State) : Host.Outcome State Fault Refusal :=
  .next <| State.done <|
    match s.periph spi with
    | none => s
    | some p =>
      if p.busy = false then s
      else if p.idx + 1#8 = p.len then
        ((s.transmit spi (memRead s.mem (p.addr + p.idx.setWidth 16))).setPeriph spi
          { p with idx := p.idx + 1#8, busy := false }).performComplete spi
      else
        (s.transmit spi (memRead s.mem (p.addr + p.idx.setWidth 16))).setPeriph spi { p with idx := p.idx + 1#8 }

/-- `SPI_FAIL spi` (R158): the transfer is abandoned; address, length and index keep their values and nothing is latched. -/
def execSpiFail (spi : SpiHandle) (s : State) : Host.Outcome State Fault Refusal :=
  .next <| State.done <|
    match s.periph spi with
    | none => s
    | some p => if p.busy = false then s else s.setPeriph spi { p with busy := false }

end Sys2Proof.Machine
end

