-- ==== Sys2Proof/Machine/Dispatch.lean ====
section
/-! DEFINITION. The meaning of every operation: one arm per constructor of `Instr`. -/

namespace Sys2Proof.Machine

def exec (i : Instr) (s : State) : Host.Outcome State Fault Refusal :=
  match i with
  | .dbInit tim ms => Sys2Proof.Machine.execDbInit tim ms s
  | .dbRegister port pin level cb => Sys2Proof.Machine.execDbRegister port pin level cb s
  | .dbEdge mask => Sys2Proof.Machine.execDbEdge mask s
  | .dbSettle => Sys2Proof.Machine.execDbSettle s
  | .timTick => Sys2Proof.Machine.execTimTick s
  | .srCreateGpio srclk rclk ser => Sys2Proof.Machine.execSrCreateGpio srclk rclk ser s
  | .srCreateSpi spi rclk => Sys2Proof.Machine.execSrCreateSpi spi rclk s
  | .srWrite inst addr len => Sys2Proof.Machine.execSrWrite inst addr len s
  | .srComplete spi => Sys2Proof.Machine.execSrComplete spi s
  | .spiByte spi => Sys2Proof.Machine.execSpiByte spi s
  | .spiFail spi => Sys2Proof.Machine.execSpiFail spi s
  | .envLevel line level => Sys2Proof.Machine.execEnvLevel line level s
  | .envStore addr val => Sys2Proof.Machine.execEnvStore addr val s

end Sys2Proof.Machine
end

