-- ==== Sys2Proof/Machine/Stimulus.lean ====
section
/-! DEFINITION. The stimulus stream (00_scope.md rule R5, 10_state.md rule R49, assumption log entries 1 and 2): how a step takes its
word and its draws, and how words come to stand in the stream. -/

namespace Sys2Proof.Machine

/-- The next word of the stream and the state in which it is processed: the item taken off, its draws those of this step.
`none` where the stream is empty. -/
def State.takeWord (s : State) : Option (Word64 × State) :=
  match s.stim with
  | [] => none
  | inp :: rest => some (inp.word, { s with stim := rest, draws := inp.draws })

/-- After reset, and whenever the stream is empty, the block waits for a word: nothing changes (R223). -/
def State.wait (s : State) : State := s

/-- A word put before the rest of the stream, with the draws that stand in the state. -/
def State.deliverNext (s : State) (w : Word64) : State := { s with stim := { word := w, draws := s.draws } :: s.stim }

/-- A stimulus put after the rest of the stream: a program loaded from outside. -/
def State.load (s : State) (inputs : List Input) : State := { s with stim := s.stim ++ inputs }

/-- An operation as an item of the stream, with given draws. -/
def Input.of (d : Draws) (i : Instr) : Input := { word := encode i, draws := d }

/-- A file of stimulus bytes as items of the stream, with given draws (R64). -/
def inputsOfBytes (d : Draws) (bs : List Byte) : List Input := (wordsOfBytes bs).map (fun w => { word := w, draws := d })

end Sys2Proof.Machine
end

