-- ==== Sys2Proof/Machine/Step.lean ====
section
/-! DEFINITION. One step: the processing of the next word of the stimulus stream (00_scope.md rule R5), and the word placed there by
the host. -/

namespace Sys2Proof.Machine

/-- A legal word runs its operation; an illegal word produces `ILLEGAL` and changes nothing else (R98, R100); with no word in the
stream the block waits (R223). -/
def step (s : State) : Host.Outcome State Fault Refusal :=
  match s.takeWord with
  | none => .next s.wait
  | some (w, t) =>
    match decode w with
    | .ok i => exec i t
    | .error _ => .next t.illegal

/-- `s` with the word whose lowest `nbits` bits are `w`, the bits above them 0, as the next word of the stimulus stream. -/
def State.withFetchWord (s : State) (nbits w : Nat) : State := s.deliverNext (BitVec.ofNat 64 (w % 2 ^ nbits))

end Sys2Proof.Machine
end

