-- ==== Sys2Proof/Machine/Agents.lean ====
section
/-! DEFINITION. Who issues an operation, and in which context (00_scope.md rules R9, R10, 60_exceptions.md rule R205). Nothing enforces
either: `exec` runs any operation whoever issued it (R205). -/

namespace Sys2Proof.Machine

/-- The agents (R10). -/
inductive Agent where
  | host | edge | timer
  /-- SPI peripheral `h`; there is no peripheral 0, so a word with handle 0 comes from none of the three (assumption log entry 17). -/
  | spi (h : SpiHandle)
  | world
  deriving DecidableEq, Repr

/-- The execution contexts (R205). -/
inductive Context where
  | foreground | interrupt
  /-- The steps and moves of the modelled surroundings (`TIM_TICK`, `SPI_BYTE`, `SPI_FAIL`, `ENV_LEVEL`) run in neither. -/
  | outside
  deriving DecidableEq, Repr

/-- The agent that issues an operation (R10, R91). -/
def issuer : Instr → Agent
  | .dbInit _ _ => .host
  | .dbRegister _ _ _ _ => .host
  | .dbEdge _ => .edge
  | .dbSettle => .timer
  | .timTick => .timer
  | .srCreateGpio _ _ _ => .host
  | .srCreateSpi _ _ => .host
  | .srWrite _ _ _ => .host
  | .srComplete h => .spi h
  | .spiByte h => .spi h
  | .spiFail h => .spi h
  | .envLevel _ _ => .world
  | .envStore _ _ => .host

/-- The context an operation runs in (R205). -/
def contextOf : Instr → Context
  | .dbInit _ _ => .foreground
  | .dbRegister _ _ _ _ => .foreground
  | .dbEdge _ => .interrupt
  | .dbSettle => .interrupt
  | .timTick => .outside
  | .srCreateGpio _ _ _ => .foreground
  | .srCreateSpi _ _ => .foreground
  | .srWrite _ _ _ => .foreground
  | .srComplete _ => .interrupt
  | .spiByte _ => .outside
  | .spiFail _ => .outside
  | .envLevel _ _ => .outside
  | .envStore _ _ => .foreground

/-- The operations that produce a result word: the five commands and `DB_EDGE` (R91, R96). -/
def returnsResult : Instr → Bool
  | .dbInit _ _ => true
  | .dbRegister _ _ _ _ => true
  | .dbEdge _ => true
  | .dbSettle => false
  | .timTick => false
  | .srCreateGpio _ _ _ => true
  | .srCreateSpi _ _ => true
  | .srWrite _ _ _ => true
  | .srComplete _ => false
  | .spiByte _ => false
  | .spiFail _ => false
  | .envLevel _ _ => false
  | .envStore _ _ => false

/-- The operations of the Debounce unit (R110). -/
def ofDebounceUnit : Instr → Bool
  | .dbInit _ _ => true
  | .dbRegister _ _ _ _ => true
  | .dbEdge _ => true
  | .dbSettle => true
  | .timTick => true
  | .srCreateGpio _ _ _ => false
  | .srCreateSpi _ _ => false
  | .srWrite _ _ _ => false
  | .srComplete _ => false
  | .spiByte _ => false
  | .spiFail _ => false
  | .envLevel _ _ => false
  | .envStore _ _ => false

/-- The operations of the Shift-register unit and of its SPI collaborator (R140). -/
def ofShiftUnit : Instr → Bool
  | .dbInit _ _ => false
  | .dbRegister _ _ _ _ => false
  | .dbEdge _ => false
  | .dbSettle => false
  | .timTick => false
  | .srCreateGpio _ _ _ => true
  | .srCreateSpi _ _ => true
  | .srWrite _ _ _ => true
  | .srComplete _ => true
  | .spiByte _ => true
  | .spiFail _ => true
  | .envLevel _ _ => false
  | .envStore _ _ => false

end Sys2Proof.Machine
end

