-- ==== Sys2Proof/Machine/Pseudo.lean ====
section
/-! DEFINITION. The pseudo-operations: shorthand that expands to operations, none with an opcode of its own (30_encoding.md rule R102). -/

namespace Sys2Proof.Machine

/-- `WAIT n` (R102). -/
def pseudoWait (n : Nat) : List Instr := List.replicate n .timTick

/-- `WAIT_MS m` (R102). -/
def pseudoWaitMs (m : Nat) : List Instr := pseudoWait (Config.ticksPerMs * m)

/-- `ENV_TOGGLE line=ln`: the input changes and the edge collaborator reports it (R102, R172). -/
def pseudoEnvToggle (s : State) (ln : LineId) : List Instr :=
  [.envLevel ln (!gpioRead s.gpioIn ln), .dbEdge (pinMaskOf (pinIndexOf ln))]

/-- `ENV_FILL addr=a, b0, b1, …`: addresses modulo 65536 (R102). -/
def pseudoEnvFill : Addr → List Byte → List Instr
  | _, [] => []
  | a, b :: bs => .envStore a b :: pseudoEnvFill (a + 1#16) bs

/-- `SPI_DRAIN spi=h`: `spi_len[h] - spi_idx[h]` bytes, none where the peripheral is idle (R102). -/
def pseudoSpiDrain (s : State) (h : SpiHandle) : List Instr :=
  match s.periph h with
  | none => []
  | some p => if p.busy then List.replicate (p.len.toNat - p.idx.toNat) (.spiByte h) else []

/-- `SEG_WRITE inst=d, addr=a, right=r, left=l`: the seven-segment encoder's call, right digit first (R102, R178). -/
def pseudoSegWrite (d : Desc) (a : Addr) (right left : Byte) : List Instr :=
  [.envStore a right, .envStore (a + 1#16) left, .srWrite d a 2#8]

end Sys2Proof.Machine
end

