-- ==== Sys2Proof/Machine/Text.lean ====
section
/-! DEFINITION. The textual form of operations and results (30_encoding.md rule R101; digit counts: assumption log entry 18). -/

namespace Sys2Proof.Machine

/-- The upper-case hexadecimal digit of a number below 16. -/
def hexDigit (n : Nat) : Char := if n < 10 then Char.ofNat (48 + n) else Char.ofNat (55 + n)

/-- The `k` lowest hexadecimal digits of `n`, most significant first. -/
def hexDigits : Nat → Nat → List Char
  | 0, _ => []
  | k + 1, n => hexDigits k (n / 16) ++ [hexDigit (n % 16)]

/-- `0x` and `k` hexadecimal digits (R7, R101). -/
def hexText (k n : Nat) : List Char := '0' :: 'x' :: hexDigits k n

/-- The decimal digits of `n`, at most `fuel` of them. -/
def decDigits : Nat → Nat → List Char
  | 0, _ => []
  | fuel + 1, n => if n < 10 then [Char.ofNat (48 + n)] else decDigits fuel (n / 10) ++ [Char.ofNat (48 + n % 10)]

/-- A number in decimal (R7, R101). -/
def decText (n : Nat) : List Char := decDigits 20 n

/-- A level as `0` or `1` (R7). -/
def levelText (v : Level) : List Char := if v then ['1'] else ['0']

/-- `name=value` pairs separated by commas (R101). -/
def pairsText : List (String × List Char) → List Char
  | [] => []
  | [(n, v)] => n.toList ++ '=' :: v
  | (n, v) :: p :: ps => n.toList ++ '=' :: v ++ ',' :: ' ' :: pairsText (p :: ps)

/-- The operand pairs of an operation, in the order of its textual form (R101). -/
def operandsText : Instr → List (String × List Char)
  | .dbInit tim ms => [("tim", decText tim.toNat), ("ms", decText ms.toNat)]
  | .dbRegister port pin level cb =>
    [("port", decText port.toNat), ("pin", hexText 4 pin.toNat), ("level", levelText level), ("cb", hexText 2 cb.toNat)]
  | .dbEdge mask => [("mask", hexText 4 mask.toNat)]
  | .dbSettle => []
  | .timTick => []
  | .srCreateGpio srclk rclk ser =>
    [("srclk", hexText 2 srclk.toNat), ("rclk", hexText 2 rclk.toNat), ("ser", hexText 2 ser.toNat)]
  | .srCreateSpi spi rclk => [("spi", decText spi.toNat), ("rclk", hexText 2 rclk.toNat)]
  | .srWrite inst addr len => [("inst", hexText 8 inst.toNat), ("addr", hexText 4 addr.toNat), ("len", decText len.toNat)]
  | .srComplete spi => [("spi", decText spi.toNat)]
  | .spiByte spi => [("spi", decText spi.toNat)]
  | .spiFail spi => [("spi", decText spi.toNat)]
  | .envLevel line level => [("line", hexText 2 line.toNat), ("level", levelText level)]
  | .envStore addr val => [("addr", hexText 4 addr.toNat), ("val", hexText 2 val.toNat)]

/-- An operation as text: the mnemonic, then its pairs (R101). -/
def instrText (i : Instr) : List Char :=
  match operandsText i with
  | [] => i.op.mnemonic.toList
  | p :: ps => i.op.mnemonic.toList ++ ' ' :: pairsText (p :: ps)

/-- The name of a status (R97). -/
def Status.name : Status → String
  | .ok => "OK"
  | .capacity => "CAPACITY"
  | .misconfig => "MISCONFIG"
  | .invalidArg => "INVALID_ARG"
  | .periphError => "PERIPH_ERROR"
  | .illegal => "ILLEGAL"

/-- A result as text: `-> STATUS`, or `-> STATUS, value` where the value is not 0 (R101). -/
def resultText (st : Status) (val : ResultValue) : List Char :=
  if val = 0#32 then "-> ".toList ++ st.name.toList
  else "-> ".toList ++ st.name.toList ++ ", ".toList ++ hexText 8 val.toNat

end Sys2Proof.Machine
end

