-- ==== Sys2Proof/Safety.lean ====
section
/-! DEFINITION. The terms in which claims about the block are stated: the invariants of its state (10_state.md rules R31, R33, R34), the
projections of the trace (00_scope.md rule R11), the premises a claim may name (R10, R172), and quiescence (R238). -/

namespace Sys2Proof.Machine

/-! ## The trace -/

/-- The projection of a trace onto one line: the levels driven on it, in order (R11, R236). -/
def lineDrives (ln : LineId) : List Event → List Level
  | [] => []
  | .w l v :: es => if l = ln then v :: lineDrives ln es else lineDrives ln es
  | .cb _ _ :: es | .send _ _ _ :: es | .tx _ _ :: es => lineDrives ln es

/-- The projection of a trace onto one callback: the levels it was invoked with, in order (R11, R236). -/
def callbackLevels (id : CallbackId) : List Event → List Level
  | [] => []
  | .cb c v :: es => if c = id then v :: callbackLevels id es else callbackLevels id es
  | .w _ _ :: es | .send _ _ _ :: es | .tx _ _ :: es => callbackLevels id es

/-- The projection of a trace onto one peripheral: its `SEND` and `TX` events, in order (R11, R236). -/
def periphEvents (h : SpiHandle) : List Event → List Event
  | [] => []
  | .send h' a n :: es => if h' = h then .send h' a n :: periphEvents h es else periphEvents h es
  | .tx h' b :: es => if h' = h then .tx h' b :: periphEvents h es else periphEvents h es
  | .w _ _ :: es | .cb _ _ :: es => periphEvents h es

/-- An event is a callback invocation. -/
def Event.isCallback : Event → Bool
  | .cb _ _ => true
  | .w _ _ | .send _ _ _ | .tx _ _ => false

/-- The last level in a list, `none` for the empty list. -/
def lastLevel : List Level → Option Level
  | [] => none
  | [v] => some v
  | _ :: v :: vs => lastLevel (v :: vs)

/-- The bytes of a Transfer Buffer, ascending, addresses modulo 65536 (R63, R68). -/
def bufferBytes (m : Memory) (a : Addr) (n : Nat) : List Byte := (List.range n).map (fun i => memRead m (a + BitVec.ofNat 16 i))

/-- The drives of one bit: shift clock low, data line to the bit, shift clock high (R147). -/
def bitDrives (srclk ser : LineId) (b : Level) : List Event := [.w srclk false, .w ser b, .w srclk true]

/-- The drives of one byte, bit 7 first (R63, R147). -/
def byteDrives (srclk ser : LineId) (b : Byte) : List Event :=
  [7, 6, 5, 4, 3, 2, 1, 0].flatMap (fun k => bitDrives srclk ser (b.getLsbD k))

/-- The drives of a GPIO-mode write of some bytes: open the latch, clock the bytes out, close the latch (R145 to R148). -/
def writeDrives (srclk rclk ser : LineId) (bytes : List Byte) : List Event :=
  .w rclk false :: (bytes.flatMap (byteDrives srclk ser) ++ [.w rclk true])

/-- Bytes as one number, the first byte most significant: what a chain of chips holds after they have been shifted in (R177). -/
def bytesValue : List Byte → Nat
  | [] => 0
  | b :: bs => b.toNat * 256 ^ bs.length + bytesValue bs

/-! ## The lines and their levels at a settle -/

/-- The live level of the line of an entry (R120). -/
def liveLevel (gpioIn : Sparse Level) (e : LineEntry) : Level := gpioRead gpioIn (lineOf e.port e.pin)

/-- The callback events of a scan of some entries: one for each whose level changed, in order (R120 to R122). -/
def settleEvents (gpioIn : Sparse Level) : List LineEntry → List Event
  | [] => []
  | e :: es =>
    if liveLevel gpioIn e ≠ e.lastState then .cb e.cb (liveLevel gpioIn e) :: settleEvents gpioIn es
    else settleEvents gpioIn es

/-- A descriptor is well-formed, written with the bits of R94. -/
def DescWellFormed (d : Desc) : Prop :=
  d ≠ 0#32 ∧ d.extractLsb' 4 4 = 0#4 ∧
    ((d.extractLsb' 0 2 = 1#2 ∧ d.extractLsb' 2 2 = 0#2) ∨
      (d.extractLsb' 0 2 = 2#2 ∧ d.extractLsb' 2 2 ≠ 0#2 ∧ d.extractLsb' 8 8 = 0#8 ∧ d.extractLsb' 24 8 = 0#8))

/-- The meaningful entries of the line table, in registration order (R30). -/
def State.lines (s : State) : List LineEntry := s.line.toList.take s.dbCount.toNat

/-- The meaningful entries of the SPI registry, in creation order (R33). -/
def State.registry (s : State) : List SpiRegEntry := s.spiReg.toList.take s.spiRegCount.toNat

/-! ## Invariants -/

/-- The Debounce unit's invariants (R31 (a) to (e), and R125: Armed implies a mask that is not 0). -/
structure State.DebounceInv (s : State) : Prop where
  count_le : s.dbCount.toNat ≤ Config.dbCapacity
  mask_eq : s.dbMask = (s.lines.map LineEntry.pin).foldl (· ||| ·) 0#16
  pin_oneHot : ∀ e ∈ s.lines, popcount e.pin = 1
  cnt_lt : s.dbInit = true → s.timCnt.toNat < s.dbPeriod.toNat
  cnt_zero : s.dbInit = false → s.timCnt = 0#20 ∧ s.timRun = false
  tim_bound : s.dbInit = true → s.dbTim ≠ 0#2
  period_range : s.dbInit = true → 10 ≤ s.dbPeriod.toNat ∧ s.dbPeriod.toNat ≤ 655350
  armed_mask : s.timRun = true → s.dbMask ≠ 0#16

/-- The Shift-register unit's invariants: every meaningful registry entry names a peripheral and holds the descriptor of an `SPI_SW`
instance on it (R33); a busy peripheral has bytes left to send (R34). -/
structure State.ShiftInv (s : State) : Prop where
  entry_ok : ∀ e ∈ s.registry, e.h ≠ 0#2 ∧ e.inst = Inst.desc (.spiSw e.h (descRclk e.inst))
  busy_left : ∀ h p, s.periph h = some p → p.busy = true → p.idx.toNat < p.len.toNat

/-- What R174 asks of an observed cascade: at least one chip, and lines that are distinct or a peripheral that exists. -/
def Cascade.wf (c : Cascade) : Bool :=
  decide (1 ≤ c.chips) && c.distinct &&
    match c.tap with
    | .gpio _ _ _ => true
    | .spi h _ => decide (h ≠ 0#2)

/-- The maps of the state are in their canonical form and the observed cascades are as R174 asks: the MODEL's own invariant. -/
structure State.FormInv (s : State) : Prop where
  mem_wf : Memory.wf s.mem = true
  gpioIn_wf : Sparse.wf unlistedLevel 256 s.gpioIn = true
  gpioOut_wf : Sparse.wf none 256 s.gpioOut = true
  cascades_wf : ∀ c ∈ s.cascades, c.wf = true

/-- The invariant of the state. -/
structure State.Inv (s : State) : Prop where
  debounce : s.DebounceInv
  shift : s.ShiftInv
  form : s.FormInv

/-- Launch parameters in their canonical form. -/
structure Launch.Wf (p : Launch) : Prop where
  mem_wf : Memory.wf p.mem = true
  gpioIn_wf : Sparse.wf unlistedLevel 256 p.gpioIn = true
  cascades_wf : ∀ c ∈ p.cascades, c.wf = true

/-- What the trace says of `last_state` (R31 (f)): every callback in the trace belongs to a registered line, and where one line alone
has a callback identifier, its `last_state` is the level that callback was last invoked with, if it ever was. -/
structure State.DeliveredInv (s : State) : Prop where
  known : ∀ id v, Event.cb id v ∈ s.outTrace → ∃ e ∈ s.lines, e.cb = id
  latest : ∀ (i : Nat) (e : LineEntry), s.lines[i]? = some e →
    (∀ (j : Nat) (e' : LineEntry), s.lines[j]? = some e' → e'.cb = e.cb → j = i) →
    callbackLevels e.cb s.outTrace = [] ∨ lastLevel (callbackLevels e.cb s.outTrace) = some e.lastState

/-- The driven levels are what the trace says was driven last (R42, R43). -/
def State.DrivenByTrace (s : State) : Prop := ∀ ln, drivenLevel s.gpioOut ln = lastLevel (lineDrives ln s.outTrace)

/-- A cascade that shares a line holds any value in both stages: the free values drawn for its place in the list and some length of
the trace (R232, U11). -/
def State.SharedInv (s : State) : Prop :=
  ∀ (k : Nat) (c : Cascade), s.cascades[k]? = some c → s.sharesLine c = true →
    ∃ n, c.chain = Config.sharedChain _ n k ∧ c.outputs = Config.sharedOutputs _ n k

/-! ## What an operation leaves as it was -/

/-- Every observed cascade is still observed, with its lines and its chips, and one that shares no line afterwards is as it was. -/
def KeepsUnshared (s t : State) : Prop :=
  ∀ (k : Nat) (c : Cascade), s.cascades[k]? = some c →
    ∃ c', t.cascades[k]? = some c' ∧ c'.tap = c.tap ∧ c'.chips = c.chips ∧ (t.sharesLine c' = false → c' = c)

/-- The state of the Debounce unit is the same (R23 to R30). -/
structure SameDebounce (s t : State) : Prop where
  dbInit : t.dbInit = s.dbInit
  dbTim : t.dbTim = s.dbTim
  dbPeriod : t.dbPeriod = s.dbPeriod
  timRun : t.timRun = s.timRun
  timCnt : t.timCnt = s.timCnt
  dbCount : t.dbCount = s.dbCount
  dbMask : t.dbMask = s.dbMask
  line : t.line = s.line

/-- The state of the Shift-register unit and of the SPI peripherals is the same (R32 to R34). -/
structure SameShift (s t : State) : Prop where
  spiRegCount : t.spiRegCount = s.spiRegCount
  spiReg : t.spiReg = s.spiReg
  spi : t.spi = s.spi

/-- The configuration is the same (R35 to R37). -/
structure SameConfig (s t : State) : Prop where
  extiImr : t.extiImr = s.extiImr
  extiPortsel : t.extiPortsel = s.extiPortsel
  spiCfg : t.spiCfg = s.spiCfg

/-! ## Runs -/

/-- The state after a list of operations one after another. -/
def runOps : List Instr → State → Host.Outcome State Fault Refusal
  | [], s => .next s
  | i :: is, s =>
    match exec i s with
    | .next t => runOps is t
    | .fault f => .fault f
    | .refused r => .refused r

/-- The state after one operation: the next state where `exec` answers one. -/
def afterOp (i : Instr) (s : State) : State :=
  match exec i s with
  | .next t => t
  | .fault _ => s
  | .refused _ => s

/-- The ticks counted since the last qualifying edge along a list of operations, `c` having been counted before them; `none` once
a tick completes the `period` or a `DB_SETTLE` is injected (R127). -/
def windowTicks (period : Nat) : Nat → State → List Instr → Option Nat
  | c, _, [] => some c
  | c, s, i :: is =>
    match i with
    | .timTick => if c + 1 < period then windowTicks period (c + 1) (afterOp i s) is else none
    | .dbEdge mask => windowTicks period (if mask &&& s.dbMask = 0#16 then c else 0) (afterOp i s) is
    | .dbSettle => none
    | .dbInit _ _ | .dbRegister _ _ _ _ | .srCreateGpio _ _ _ | .srCreateSpi _ _ | .srWrite _ _ _ | .srComplete _ | .spiByte _
    | .spiFail _ | .envLevel _ _ | .envStore _ _ => windowTicks period c (afterOp i s) is

/-- No expiry and no completion is outstanding (R238). -/
def State.quiescent (s : State) : Bool := !s.timRun && s.spi.toList.all (fun p => !p.busy)

/-! ## Premises a claim may name -/

/-- The edge interrupt of a line is enabled and routed from its port (R172). -/
def State.watched (s : State) (ln : LineId) : Bool :=
  s.extiImr.getLsbD (pinIndexOf ln).toNat && decide (s.extiPortsel[(pinIndexOf ln).toNat]? = some (portOf ln))

/-- The pin index whose edge a word owes: that of a watched line whose level it changes (R172). -/
def State.owesEdge (s : State) (w : Word64) : Option PinIndex :=
  match decode w with
  | .ok (.envLevel ln v) => if s.watched ln && gpioRead s.gpioIn ln != v then some (pinIndexOf ln) else none
  | .ok _ => none
  | .error _ => none

/-- The next word is a `DB_EDGE` with the bit of a pin index (R172). -/
def reportsEdge (k : PinIndex) : List Input → Prop
  | [] => False
  | inp :: _ => ∃ mask, decode inp.word = .ok (.dbEdge mask) ∧ mask.getLsbD k.toNat = true

/-- The premise `EDGE_FAITHFUL` over a stimulus from a state (R172): every `ENV_LEVEL` that changes a watched line is followed, before
any other step, by a `DB_EDGE` with its bit. -/
def EdgeFaithful : State → List Input → Prop
  | _, [] => True
  | s, inp :: rest =>
    (match s.owesEdge inp.word with
      | none => True
      | some k => reportsEdge k rest) ∧
    (match step { s with stim := [inp] } with
      | .next t => EdgeFaithful t rest
      | .fault _ => True
      | .refused _ => True)

/-- Fairness of the timer over an infinite run (R10): a running timer eventually takes a `TIM_TICK`. -/
def FairTimer (states : Nat → State) (inputs : Nat → Input) : Prop :=
  ∀ n, (states n).timRun = true → ∃ m, n ≤ m ∧ decode (inputs m).word = .ok .timTick

/-- Fairness of SPI peripheral `h` over an infinite run (R10): while busy it eventually takes an `SPI_BYTE` or an `SPI_FAIL`. -/
def FairSpi (h : SpiHandle) (states : Nat → State) (inputs : Nat → Input) : Prop :=
  ∀ n p, (states n).periph h = some p → p.busy = true →
    ∃ m, n ≤ m ∧ (decode (inputs m).word = .ok (.spiByte h) ∨ decode (inputs m).word = .ok (.spiFail h))

end Sys2Proof.Machine
end

