-- ==== Sys2Proof/Certificates/Slice0/Obligations.lean ====
section
/-! DEFINITION. The statements for the provers, from the numbered rules of spec/. Where a statement rests on a choice of the model its
docstring names the log entry. -/

open Sys2Proof Sys2Proof.Machine

/-! ## Encoding (30_encoding.md) -/

/-- R80 to R92, R98 to R100: decoding the encoding of any legal operation gives it back, every operand at every value. -/
def Obligations.DecodeOfEncode : Prop := ∀ i : Instr, WellFormed i → decode (encode i) = .ok i

/-- R98, R100: a word that decodes is the one encoding of a legal operation: no bit of it is dropped. -/
def Obligations.EncodeOfDecode : Prop := ∀ (w : Word64) (i : Instr), decode w = .ok i → encode i = w ∧ WellFormed i

/-- R98: which words are illegal, and what the step of one does; every other word decodes to one operation. -/
def Obligations.IllegalWordsAndTheirStep : Prop :=
  (∀ w : Word64, (∃ e, decode w = .error e) ↔
    ((∀ o : Op, field w 0 8 ≠ o.code) ∨ (∃ o : Op, field w 0 8 = o.code ∧ w &&& o.format.mbz ≠ 0#64) ∨
      (field w 0 8 = 0x02#8 ∧ popcount (w.extractLsb' 16 16) ≠ 1))) ∧
  (∀ w : Word64, (∃ e, decode w = .error e) ∨ (∃ i, decode w = .ok i ∧ ∀ j, decode w = .ok j → j = i)) ∧
  (∀ (s : State) (inp : Input) (rest : List Input) (e : IllegalWord), s.stim = inp :: rest → decode inp.word = .error e →
    step s = .next { s with stim := rest, draws := inp.draws, result := some 0x000000000000007F#64 })

/-- Words written out in 95_test_vectors.md decode to the operations it names, one of each family (a sanity statement). -/
def Obligations.SampleWordsDecode : Prop :=
  decode 0x0000000000050101#64 = .ok (.dbInit 1#2 5#16) ∧
  decode 0x0000110120000202#64 = .ok (.dbRegister 2#4 0x2000#16 true 0x11#8) ∧
  decode 0x0000000000010010#64 = .ok (.dbEdge 0x0001#16) ∧
  decode 0x0000000007060520#64 = .ok (.srCreateGpio 0x05#8 0x06#8 0x07#8) ∧
  decode 0x0706050101000122#64 = .ok (.srWrite 0x07060501#32 0x0100#16 1#8) ∧
  decode 0x0000000000000131#64 = .ok (.spiByte 1#2) ∧
  decode 0x0000000000012DE0#64 = .ok (.envLevel 0x2D#8 true) ∧
  decode 0x00000000FFFF81E1#64 = .ok (.envStore 0xFFFF#16 0x81#8)

/-- R64: a word written as bytes is little-endian, the opcode byte first, and is read back from its bytes. -/
def Obligations.WordsAreLittleEndian : Prop :=
  (∀ (w : Word64) (rest : List Byte), takeWord (bytesOfWord w ++ rest) = some (w, rest)) ∧
  (∀ w : Word64, bytesOfWord w = (List.range 8).map (fun n => w.extractLsb' (8 * n) 8)) ∧
  (∀ i : Instr, (bytesOfWord (encode i)).head? = some i.op.code)

/-! ## Steps (00_scope.md) -/

/-- R5: a step runs the operation of the next word of the stimulus stream, with the draws of that step, the word taken off the stream
(the stream and the draws stand in State by log entries 1 and 2). -/
def Obligations.StepRunsDecodedOperation : Prop :=
  ∀ (s : State) (inp : Input) (rest : List Input) (i : Instr), s.stim = inp :: rest → decode inp.word = .ok i →
    step s = exec i { s with stim := rest, draws := inp.draws }

/-- R223 and log entry 1: with no word in the stream the block waits and nothing changes. -/
def Obligations.StepWaitsForAWord : Prop := ∀ s : State, s.stim = [] → step s = .next s

/-- R190: no step ends in a fault or a refusal, in any state (that illegal words run is log entry 4). -/
def Obligations.EveryStepAnswersNext : Prop := ∀ s : State, ∃ t, step s = .next t

/-! ## Reset (70_reset_and_hazards.md) -/

/-- R221: the block's own state after reset, whatever the launch parameters. -/
def Obligations.ResetBlockState : Prop :=
  ∀ p : Launch,
    (State.atReset p).dbInit = false ∧ (State.atReset p).dbTim = 0#2 ∧ (State.atReset p).dbPeriod = 0#20 ∧
    (State.atReset p).timRun = false ∧ (State.atReset p).timCnt = 0#20 ∧ (State.atReset p).dbCount = 0#5 ∧
    (State.atReset p).dbMask = 0x0000#16 ∧
    (∀ i : Nat, i < 16 → (State.atReset p).line[i]? = some ⟨0#4, 0#16, false, 0#8⟩) ∧
    (State.atReset p).spiRegCount = 0#2 ∧ (∀ j : Nat, j < 3 → (State.atReset p).spiReg[j]? = some ⟨0#2, 0#32⟩) ∧
    (∀ h : SpiHandle, h ≠ 0#2 → (State.atReset p).periph h = some ⟨false, 0#16, 0#8, 0#8⟩) ∧
    (∀ ln : LineId, drivenLevel (State.atReset p).gpioOut ln = none) ∧ (State.atReset p).outTrace = [] ∧
    (State.atReset p).debounceMode = .idle ∧ (State.atReset p).lines = [] ∧ (State.atReset p).registry = []

/-- R222: the launch parameters are taken as they are given; `State.reset` takes those the model names (log entries 5 to 10: the
model's choice, not the spec's). -/
def Obligations.ResetTakesLaunchParameters : Prop :=
  (∀ p : Launch, (State.atReset p).extiImr = p.extiImr ∧ (State.atReset p).extiPortsel = p.extiPortsel ∧
    (State.atReset p).spiCfg = p.spiCfg ∧ (State.atReset p).mem = p.mem ∧ (State.atReset p).gpioIn = p.gpioIn ∧
    (State.atReset p).cascades = p.cascades) ∧
  State.reset = State.atReset Launch.named

/-- R31, R33, R34, R42: the invariants hold at reset, for all launch parameters in canonical form. -/
def Obligations.ResetMeetsInvariants : Prop :=
  (∀ p : Launch, p.Wf → (State.atReset p).Inv ∧ (State.atReset p).DeliveredInv ∧ (State.atReset p).DrivenByTrace) ∧ Launch.named.Wf

/-- R223: right after reset no interrupt source has an effect: whatever the launch parameters, an edge, a tick, a settle, a
completion, a byte and a failure change nothing but the result. -/
def Obligations.FreshBlockIgnoresInterrupts : Prop :=
  ∀ (p : Launch) (mask : PinMask) (h : SpiHandle),
    exec (.dbEdge mask) (State.atReset p) = .next { State.atReset p with result := some 0#64 } ∧
    ∀ i ∈ [Instr.timTick, .dbSettle, .srComplete h, .spiByte h, .spiFail h],
      exec i (State.atReset p) = .next { State.atReset p with result := none }

/-! ## Invariants of every step -/

/-- R31 (a) to (e), R33, R34 and the model's canonical forms: every step keeps the invariant. -/
def Obligations.StepKeepsInv : Prop := ∀ s t : State, s.Inv → step s = .next t → t.Inv

/-- R31 (f): every step keeps `last_state` the level last delivered to the line's callback (the part that the trace tells: a line
whose callback identifier no other line has). -/
def Obligations.StepKeepsDelivered : Prop := ∀ s t : State, s.DeliveredInv → step s = .next t → t.DeliveredInv

/-- R42, R43: after every step the driven level of every line is what the trace says was driven on it last. -/
def Obligations.StepKeepsDrivenByTrace : Prop := ∀ s t : State, s.DrivenByTrace → step s = .next t → t.DrivenByTrace

/-! ## Debounce unit (40_debounce.md) -/

/-- R111, R112: every outcome of `DB_INIT`, in the order of its tests, and all it leaves unchanged; the period never wraps. -/
def Obligations.DbInitOutcome : Prop :=
  (∀ (tim : TimerHandle) (ms : Millis) (s : State),
    exec (.dbInit tim ms) s = .next
      (if s.dbInit = true then { s with result := some 0x0000000000000000#64 }
      else if tim = 0#2 then { s with result := some 0x0000000000000003#64 }
      else if ms = 0#16 then { s with result := some 0x0000000100000004#64 }
      else if s.draws.timCfgErr ≠ 0#8 then { s with result := some (0#24 ++ s.draws.timCfgErr ++ 0x00000004#32) }
      else { s with
        dbTim := tim, dbPeriod := BitVec.ofNat 20 (10 * ms.toNat), timRun := false, timCnt := 0#20, dbInit := true,
        result := some 0x0000000000000000#64 })) ∧
  (∀ ms : Millis, (BitVec.ofNat 20 (10 * ms.toNat)).toNat = 10 * ms.toNat)

/-- R114, R115: every outcome of `DB_REGISTER` on pin index `k`, in the order of its tests, and all it leaves unchanged; every one-hot
pin has such an index. The count is at most 16 (R31 (a), kept by every step). What becomes of the observed cascades, which are no
state of the block, is `UnsharedCascadesChangeByEventsOnly` and `SharingBeginsAndStays`. -/
def Obligations.DbRegisterOutcome : Prop :=
  (∀ (port : PortNum) (k : PinIndex) (level : Level) (cb : CallbackId) (s : State), s.dbCount.toNat ≤ 16 →
    ∃ t, exec (.dbRegister port (1#16 <<< k.toNat) level cb) s = .next t ∧
      (if s.dbCount = 16#5 then t = { s with result := some 0x0000000000000001#64 }
      else if s.extiImr.getLsbD k.toNat = false ∨ s.extiPortsel[k.toNat]? ≠ some port then
        t = { s with result := some 0x0000000000000002#64 }
      else
        t = { s with
          line := s.line.setIfInBounds s.dbCount.toNat { port := port, pin := 1#16 <<< k.toNat, lastState := level, cb := cb },
          dbMask := s.dbMask ||| (1#16 <<< k.toNat), dbCount := s.dbCount + 1#5, cascades := t.cascades,
          result := some (BitVec.ofNat 32 (s.dbCount.toNat + 1) ++ 0#32) })) ∧
  (∀ pin : PinMask, popcount pin = 1 ↔ ∃ k : PinIndex, pin = 1#16 <<< k.toNat)

/-- R98 (c): a `DB_REGISTER` whose pin is not one-hot changes nothing and its result is `ILLEGAL` (that `exec` answers so for a term no
word decodes to is log entry 16). -/
def Obligations.DbRegisterOfABadPin : Prop :=
  ∀ (port : PortNum) (pin : PinMask) (level : Level) (cb : CallbackId) (s : State), popcount pin ≠ 1 →
    exec (.dbRegister port pin level cb) s = .next { s with result := some 0x000000000000007F#64 }

/-- R117: every outcome of `DB_EDGE`, the filter first, and all it leaves unchanged. -/
def Obligations.DbEdgeOutcome : Prop :=
  ∀ (mask : PinMask) (s : State),
    exec (.dbEdge mask) s = .next
      (if mask &&& s.dbMask = 0#16 then { s with result := some 0x0000000000000000#64 }
      else if s.dbInit = false then { s with result := some 0x0000000000000003#64 }
      else { s with timRun := true, timCnt := 0#20, result := some 0x0000000000000000#64 })

/-- R120 to R122: `DB_SETTLE` stops the timer, invokes the callback of exactly the registered lines whose live level differs from
`last_state`, in registration order and with the new level, sets their `last_state` to it, and leaves all else as it was. -/
def Obligations.DbSettleOutcome : Prop :=
  ∀ s : State, ∃ t, exec .dbSettle s = .next t ∧
    t = { s with timRun := false, line := t.line, outTrace := s.outTrace ++ settleEvents s.gpioIn s.lines, result := none } ∧
    ∀ i : Nat, t.line[i]? =
      if i < s.dbCount.toNat then (s.line[i]?).map (fun e => { e with lastState := gpioRead s.gpioIn (lineOf e.port e.pin) })
      else s.line[i]?

/-- R126: `TIM_TICK` does nothing while the timer is stopped, counts while it runs, and on reaching the period reloads and performs
`DB_SETTLE` in the same step. -/
def Obligations.TimTickOutcome : Prop :=
  ∀ s : State,
    (s.timRun = false → exec .timTick s = .next { s with result := none }) ∧
    (s.timRun = true → s.timCnt + 1#20 ≠ s.dbPeriod →
      exec .timTick s = .next { s with timCnt := s.timCnt + 1#20, result := none }) ∧
    (s.timRun = true → s.timCnt + 1#20 = s.dbPeriod → ∃ t, exec .timTick s = .next t ∧
      exec .dbSettle { s with timCnt := 0#20 } = .next t ∧ t.timRun = false ∧ t.timCnt = 0#20)

/-- R127, second half: from a rearmed timer no tick before the `db_period`-th changes anything but the count, and the
`db_period`-th performs the settle, with the count back at 0. -/
def Obligations.SettleAfterExactlyOnePeriod : Prop :=
  ∀ s : State, s.timRun = true → s.timCnt = 0#20 → 1 ≤ s.dbPeriod.toNat →
    (∀ n : Nat, n < s.dbPeriod.toNat → runOps (pseudoWait n) s =
      .next { s with timCnt := BitVec.ofNat 20 n, result := if n = 0 then s.result else none }) ∧
    runOps (pseudoWait s.dbPeriod.toNat) s = exec .dbSettle s

/-- R118, R127, first half: along any operations in which fewer than `db_period` ticks separate each qualifying edge from the next, with
no injected settle, whatever else is issued between them, the timer stays Armed and no callback is invoked. -/
def Obligations.BurstHoldsTheSettleOff : Prop :=
  ∀ (ops : List Instr) (s : State) (c : Nat), s.dbInit = true → s.timRun = true →
    windowTicks s.dbPeriod.toNat s.timCnt.toNat s ops = some c →
    ∃ t, runOps ops s = .next t ∧ t.timRun = true ∧ t.timCnt.toNat = c ∧ t.dbPeriod = s.dbPeriod ∧
      ∀ id, callbackLevels id t.outTrace = callbackLevels id s.outTrace

/-- R21, R22, R125: the timer runs after an operation exactly when the operation is a qualifying edge of an initialised block, or it ran
before and the operation neither settles nor completes the period. -/
def Obligations.ArmedExactlyByQualifyingEdges : Prop :=
  ∀ (i : Instr) (s t : State), s.DebounceInv → exec i s = .next t →
    (t.debounceMode = .armed ↔
      (∃ mask, i = .dbEdge mask ∧ mask &&& s.dbMask ≠ 0#16 ∧ s.dbInit = true) ∨
      (s.debounceMode = .armed ∧ i ≠ .dbSettle ∧ ¬ (i = .timTick ∧ s.timCnt + 1#20 = s.dbPeriod)))

/-! ## Shift-register unit (41_shiftreg.md) -/

/-- R141: `SR_CREATE_GPIO` returns the descriptor and changes nothing of the block. What becomes of the observed cascades, which are
no state of the block, is `UnsharedCascadesChangeByEventsOnly` and `SharingBeginsAndStays`. -/
def Obligations.SrCreateGpioOutcome : Prop :=
  ∀ (srclk rclk ser : LineId) (s : State), ∃ t, exec (.srCreateGpio srclk rclk ser) s = .next t ∧
    t = { s with cascades := t.cascades, result := some (ser ++ rclk ++ srclk ++ 0x01#8 ++ 0#32) }

/-- R142, R144: every outcome of `SR_CREATE_SPI`, in the order of its tests, and all it leaves unchanged. What becomes of the
observed cascades, which are no state of the block, is `UnsharedCascadesChangeByEventsOnly` and `SharingBeginsAndStays`. -/
def Obligations.SrCreateSpiOutcome : Prop :=
  ∀ (spi : SpiHandle) (rclk : LineId) (s : State), ∃ t, exec (.srCreateSpi spi rclk) s = .next t ∧
    (if spi = 0#2 then t = { s with result := some 0x0000000000000003#64 }
    else if s.spiRegCount = 3#2 then t = { s with result := some 0x0000000000000001#64 }
    else if s.spiCfg[spi.toNat - 1]? ≠ some 0b0000011#7 then t = { s with result := some 0x0000000000000002#64 }
    else
      t = { s with
        spiReg := s.spiReg.setIfInBounds s.spiRegCount.toNat
          { h := spi, inst := 0#8 ++ rclk ++ 0#8 ++ 0#4 ++ spi ++ 0b10#2 },
        spiRegCount := s.spiRegCount + 1#2, cascades := t.cascades,
        result := some (0#8 ++ rclk ++ 0#8 ++ 0#4 ++ spi ++ 0b10#2 ++ 0#32) })

/-- R143: with room in the registry, an instance is created exactly when all seven configuration fields have the required value; any
deviation is `MISCONFIG` and registers nothing. -/
def Obligations.SpiContractNeedsAllSevenFields : Prop :=
  ∀ (spi : SpiHandle) (rclk : LineId) (s : State) (cfg : BitVec 7), spi ≠ 0#2 → s.spiRegCount.toNat < 3 →
    s.spiCfg[spi.toNat - 1]? = some cfg →
    (((∀ f : SpiCfgField, cfg.getLsbD f.bit = f.required) →
      ∃ t r, exec (.srCreateSpi spi rclk) s = .next t ∧ t.result = some r ∧ resultStatus r = 0x00#8 ∧
        t.spiRegCount = s.spiRegCount + 1#2) ∧
    ((∃ f : SpiCfgField, cfg.getLsbD f.bit ≠ f.required) →
      exec (.srCreateSpi spi rclk) s = .next { s with result := some 0x0000000000000002#64 }))

/-- R94: a word that is not a well-formed descriptor, the null instance among them, is answered `INVALID_ARG` with nothing touched; the
descriptors that creation builds are well-formed, and a well-formed one is never answered so. -/
def Obligations.IllFormedDescriptorsAreRejected : Prop :=
  (∀ (d : Desc) (addr : Addr) (len : Len) (s : State), ¬ DescWellFormed d →
    exec (.srWrite d addr len) s = .next { s with result := some 0x0000000000000003#64 }) ∧
  (∀ (d : Desc) (addr : Addr) (len : Len) (s : State), DescWellFormed d →
    ∃ t r, exec (.srWrite d addr len) s = .next t ∧ t.result = some r ∧ resultStatus r ≠ 0x03#8) ∧
  (∀ srclk rclk ser : LineId, DescWellFormed (ser ++ rclk ++ srclk ++ 0x01#8)) ∧
  (∀ (h : SpiHandle) (rclk : LineId), h ≠ 0#2 → DescWellFormed (0#8 ++ rclk ++ 0#8 ++ 0#4 ++ h ++ 0b10#2))

/-- R145 to R148: a GPIO-mode `SR_WRITE` drives exactly the latch low, then for every bit of every byte (ascending addresses, bit 7 first)
the three drives, then the latch high: `2 + 24*len` drives; each line is left at its last drive; all else but the observer is as it
was, and the result is `OK`. -/
def Obligations.SrWriteGpioOutcome : Prop :=
  ∀ (srclk rclk ser : LineId) (addr : Addr) (len : Len) (s : State),
    ∃ t, exec (.srWrite (ser ++ rclk ++ srclk ++ 0x01#8) addr len) s = .next t ∧
      t.outTrace = s.outTrace ++ writeDrives srclk rclk ser (bufferBytes s.mem addr len.toNat) ∧
      (writeDrives srclk rclk ser (bufferBytes s.mem addr len.toNat)).length = 2 + 24 * len.toNat ∧
      (∀ ln, drivenLevel t.gpioOut ln =
        (lastLevel (lineDrives ln (writeDrives srclk rclk ser (bufferBytes s.mem addr len.toNat)))).or
          (drivenLevel s.gpioOut ln)) ∧
      t = { s with
        gpioOut := t.gpioOut, outTrace := t.outTrace, cascades := t.cascades, result := some 0x0000000000000000#64 }

/-- R146, R149, R150, R156, R160: an SPI-mode `SR_WRITE` drives the storage clock low, whatever follows; then it is refused with
`PE_BUSY`, `PE_ERROR` or the draw, in this order, and the transfers are as they were, or the transfer is taken. -/
def Obligations.SrWriteSpiOutcome : Prop :=
  ∀ (h : SpiHandle) (rclk : LineId) (addr : Addr) (len : Len) (s : State) (p : SpiPeriph) (draw : ErrCode),
    s.periph h = some p → s.draws.spiSendErr[h.toNat - 1]? = some draw →
    ∃ t, exec (.srWrite (0#8 ++ rclk ++ 0#8 ++ 0#4 ++ h ++ 0b10#2) addr len) s = .next t ∧
      (∀ ln, drivenLevel t.gpioOut ln = if ln = rclk then some false else drivenLevel s.gpioOut ln) ∧
      (if p.busy = true then
        t = { s with gpioOut := t.gpioOut, outTrace := s.outTrace ++ [.w rclk false], cascades := t.cascades,
                     result := some 0x0000000200000004#64 }
      else if len = 0#8 then
        t = { s with gpioOut := t.gpioOut, outTrace := s.outTrace ++ [.w rclk false], cascades := t.cascades,
                     result := some 0x0000000100000004#64 }
      else if draw ≠ 0#8 then
        t = { s with gpioOut := t.gpioOut, outTrace := s.outTrace ++ [.w rclk false], cascades := t.cascades,
                     result := some (0#24 ++ draw ++ 0x00000004#32) }
      else
        t = { s with gpioOut := t.gpioOut, outTrace := s.outTrace ++ [.w rclk false, .send h addr len], cascades := t.cascades,
                     spi := t.spi, result := some 0x0000000000000000#64 } ∧
        ∀ h', t.periph h' = if h' = h then some ⟨true, addr, len, 0#8⟩ else s.periph h')

/-- R152 to R154: `SR_COMPLETE` drives the storage clock of the first registered instance of the peripheral low, then high; with none it
does nothing; all else but the observer is as it was. -/
def Obligations.SrCompleteOutcome : Prop :=
  ∀ (h : SpiHandle) (s : State), ∃ t, exec (.srComplete h) s = .next t ∧
    match s.registry.find? (fun e => e.h == h) with
    | none => t = { s with result := none }
    | some e =>
      t = { s with
        gpioOut := t.gpioOut, cascades := t.cascades, result := none,
        outTrace := s.outTrace ++ [.w (e.inst.extractLsb' 16 8) false, .w (e.inst.extractLsb' 16 8) true] } ∧
      ∀ ln, drivenLevel t.gpioOut ln = if ln = e.inst.extractLsb' 16 8 then some true else drivenLevel s.gpioOut ln

/-- R157: `SPI_BYTE` of an idle peripheral or of handle 0 does nothing; of a busy one it sends the byte that stands in memory at that
step; after the last byte the peripheral is idle and the completion is performed, as `SR_COMPLETE` would. -/
def Obligations.SpiByteOutcome : Prop :=
  ∀ (h : SpiHandle) (s : State),
    ((∀ p, s.periph h = some p → p.busy = false) → exec (.spiByte h) s = .next { s with result := none }) ∧
    (∀ p, s.periph h = some p → p.busy = true → ∃ t u, exec (.spiByte h) s = .next t ∧
      u.outTrace = s.outTrace ++ [.tx h (memRead s.mem (p.addr + p.idx.setWidth 16))] ∧
      u = { s with outTrace := u.outTrace, cascades := u.cascades, spi := u.spi } ∧
      (∀ h', u.periph h' =
        if h' = h then some { p with idx := p.idx + 1#8, busy := decide (p.idx + 1#8 ≠ p.len) } else s.periph h') ∧
      (if p.idx + 1#8 = p.len then exec (.srComplete h) u = .next t else t = { u with result := none }))

/-- R158: `SPI_FAIL` of an idle peripheral or of handle 0 does nothing; of a busy one it clears `spi_busy` and nothing else: no drive,
no completion, address, length and index kept. -/
def Obligations.SpiFailOutcome : Prop :=
  ∀ (h : SpiHandle) (s : State),
    ((∀ p, s.periph h = some p → p.busy = false) → exec (.spiFail h) s = .next { s with result := none }) ∧
    (∀ p, s.periph h = some p → p.busy = true → ∃ t, exec (.spiFail h) s = .next t ∧
      t = { s with spi := t.spi, result := none } ∧
      ∀ h', t.periph h' = if h' = h then some { p with busy := false } else s.periph h')

/-- R157 (b), R102: draining a busy peripheral takes one step for each byte left, sends the bytes of the buffer in ascending order, ends with
the peripheral idle, and appends the latch pulse of the owner, if it has one, after the last byte and not before. -/
def Obligations.TransferSendsItsBufferThenLatches : Prop :=
  ∀ (h : SpiHandle) (s : State) (p : SpiPeriph), s.periph h = some p → p.busy = true → p.idx.toNat < p.len.toNat →
    (pseudoSpiDrain s h).length = p.len.toNat - p.idx.toNat ∧
    ∃ t, runOps (pseudoSpiDrain s h) s = .next t ∧
      t.outTrace = s.outTrace ++
        (bufferBytes s.mem (p.addr + p.idx.setWidth 16) (p.len.toNat - p.idx.toNat)).map (Event.tx h) ++
        (match s.registry.find? (fun e => e.h == h) with
          | none => []
          | some e => [.w (e.inst.extractLsb' 16 8) false, .w (e.inst.extractLsb' 16 8) true]) ∧
      ∀ h', t.periph h' = if h' = h then some { p with busy := false, idx := p.len } else s.periph h'

/-! ## Environment and observer (42_environment.md) -/

/-- R170: `ENV_LEVEL` sets the live level of one line and changes nothing else. -/
def Obligations.EnvLevelOutcome : Prop :=
  ∀ (ln : LineId) (v : Level) (s : State), ∃ t, exec (.envLevel ln v) s = .next t ∧
    t = { s with gpioIn := t.gpioIn, result := none } ∧
    ∀ ln', gpioRead t.gpioIn ln' = if ln' = ln then v else gpioRead s.gpioIn ln'

/-- R171: `ENV_STORE` stores one byte, every other byte reads as before, and nothing else changes. -/
def Obligations.EnvStoreOutcome : Prop :=
  ∀ (addr : Addr) (val : Byte) (s : State), ∃ t, exec (.envStore addr val) s = .next t ∧
    t = { s with mem := t.mem, result := none } ∧
    ∀ a, memRead t.mem a = if a = addr then val else memRead s.mem a

/-- R175, R177: what a drive does to a GPIO-observed cascade of three distinct lines: a rising shift clock shifts in the level of the data
line; a rising storage clock copies the shift stages; a drive low, or of another line, changes nothing. -/
def Obligations.ObserverFollowsRisingEdges : Prop :=
  ∀ (c : Cascade) (srclk rclk ser ln : LineId) (v : Level) (out : Sparse (Option Level)) (n k : Nat),
    c.tap = .gpio srclk rclk ser → srclk ≠ rclk →
    (∀ b, v = true → ln = srclk → drivenLevel out srclk = some false → drivenLevel out ser = some b →
      (c.onDrive out ln v n k).chain.toNat = (2 * c.chain.toNat + b.toNat) % 2 ^ (8 * c.chips) ∧
      (c.onDrive out ln v n k).outputs.toNat = c.outputs.toNat) ∧
    (v = true → ln = rclk → drivenLevel out rclk = some false →
      (c.onDrive out ln v n k).outputs.toNat = c.chain.toNat ∧ (c.onDrive out ln v n k).chain.toNat = c.chain.toNat) ∧
    (v = false ∨ (ln ≠ srclk ∧ ln ≠ rclk) → c.onDrive out ln v n k = c) ∧
    (ln = rclk → drivenLevel out rclk ≠ some false → c.onDrive out ln v n k = c)

/-- R177 (derived there from R147, R148, R175): after a GPIO-mode write through an instance whose lines are those of an observed cascade
that shares no line (R232: what counts as sharing is log entry 12), both stages of the cascade hold what the shift stages held, moved
up by the bytes written. -/
def Obligations.GpioWriteReachesTheOutputs : Prop :=
  ∀ (srclk rclk ser : LineId) (addr : Addr) (len : Len) (s : State) (k : Nat) (c : Cascade),
    s.cascades[k]? = some c → c.tap = .gpio srclk rclk ser → s.sharesLine c = false →
    ∃ t c', exec (.srWrite (ser ++ rclk ++ srclk ++ 0x01#8) addr len) s = .next t ∧ t.cascades[k]? = some c' ∧
      c'.tap = c.tap ∧ c'.chips = c.chips ∧ c'.chain.toNat = c'.outputs.toNat ∧
      c'.outputs.toNat =
        (c.chain.toNat * 256 ^ len.toNat + bytesValue (bufferBytes s.mem addr len.toNat)) % 256 ^ c.chips

/-- R177 in SPI mode (derived there from R152, R157, R176): once the bytes left of a transfer are sent and the owner's completion has run,
both stages of an observed cascade that shares no line (R232: what counts as sharing is log entry 12) hold the bytes sent, moved in
behind what was there. -/
def Obligations.SpiTransferReachesTheOutputs : Prop :=
  ∀ (h : SpiHandle) (s : State) (p : SpiPeriph) (e : SpiRegEntry) (k : Nat) (c : Cascade),
    s.periph h = some p → p.busy = true → p.idx.toNat < p.len.toNat →
    s.registry.find? (fun e => e.h == h) = some e → e.inst.extractLsb' 2 2 = h →
    s.cascades[k]? = some c → c.tap = .spi h (e.inst.extractLsb' 16 8) → s.sharesLine c = false →
    ∃ t c', runOps (pseudoSpiDrain s h) s = .next t ∧ t.cascades[k]? = some c' ∧
      c'.tap = c.tap ∧ c'.chips = c.chips ∧ c'.chain.toNat = c'.outputs.toNat ∧
      c'.outputs.toNat =
        (c.chain.toNat * 256 ^ (p.len.toNat - p.idx.toNat) +
          bytesValue (bufferBytes s.mem (p.addr + p.idx.setWidth 16) (p.len.toNat - p.idx.toNat))) % 256 ^ c.chips

/-- R178: the seven-segment encoder's call puts the right digit's byte in the far chip and the left digit's in the near chip of a two-chip
cascade that shares no line (R232: what counts as sharing is log entry 12). -/
def Obligations.SegWritePlacesBothDigits : Prop :=
  ∀ (srclk rclk ser : LineId) (addr : Addr) (right left : Byte) (s : State) (k : Nat) (c : Cascade),
    s.cascades[k]? = some c → c.tap = .gpio srclk rclk ser → c.chips = 2 → s.sharesLine c = false →
    ∃ t c', runOps (pseudoSegWrite (ser ++ rclk ++ srclk ++ 0x01#8) addr right left) s = .next t ∧
      t.cascades[k]? = some c' ∧ c'.outputs.toNat = right.toNat * 256 + left.toNat ∧
      t.result = some 0x0000000000000000#64

/-- R232, U11 (what counts as sharing is log entry 12): from a state in which every cascade that shares a line holds any value, in both
stages, every step leads to such a state, whatever it drives, sends, creates or registers. -/
def Obligations.StepKeepsSharedFree : Prop := ∀ s t : State, s.SharedInv → step s = .next t → t.SharedInv

/-- R222, R232: at reset no cascade shares a line with a button or a registered instance, so where the cascades that a launch lists share
none among themselves (log entry 12) the invariant holds. -/
def Obligations.ResetMeetsSharedFree : Prop :=
  ∀ p : Launch,
    (∀ c ∈ p.cascades, c.shared = false ∧ c.distinct = true ∧
      ∀ d ∈ p.cascades, d.tap = c.tap ∧ d.chips = c.chips ∨ meets d.tap.lines c.tap.lines = false) →
    (∀ c ∈ p.cascades, (State.atReset p).sharesLine c = false) ∧ (State.atReset p).SharedInv

/-- R232, U11 (log entry 12): a cascade shares a line once a button on one of its lines is registered, or an instance that has one of them
and is not its own is created or written through; and one that shares a line shares it for good. -/
def Obligations.SharingBeginsAndStays : Prop :=
  ∀ (i : Instr) (s t : State) (k : Nat) (c : Cascade), exec i s = .next t → s.cascades[k]? = some c →
    ∃ c', t.cascades[k]? = some c' ∧ c'.tap = c.tap ∧ c'.chips = c.chips ∧
      (s.sharesLine c = true → t.sharesLine c' = true) ∧
      (∀ d a n j, i = .srWrite d a n → instOf d = some j → meets j.lines c.tap.lines = true → c.shows j = false →
        t.sharesLine c' = true) ∧
      (∀ a b d, i = .srCreateGpio a b d → meets [a, b, d] c.tap.lines = true → c.tap ≠ .gpio a b d → t.sharesLine c' = true) ∧
      (∀ h r, i = .srCreateSpi h r → s.spiRegCount ≠ t.spiRegCount → meets [r] c.tap.lines = true → c.tap ≠ .spi h r →
        t.sharesLine c' = true) ∧
      (∀ p m v id, i = .dbRegister p m v id → s.dbCount ≠ t.dbCount → lineOf p m ∈ c.tap.lines →
        t.sharesLine c' = true)

/-- R177 ("at no other time"), R232: an operation that drives nothing and sends nothing changes no observed cascade but those that share a
line afterwards (log entry 12). -/
def Obligations.UnsharedCascadesChangeByEventsOnly : Prop :=
  ∀ (i : Instr) (s t : State), exec i s = .next t →
    (∀ e ∈ t.outTrace.drop s.outTrace.length, e.isCallback = true) → KeepsUnshared s t

/-! ## Rules over all operations -/

/-- R11, R43: the trace is only ever appended to, and each kind of event is appended only by the operations that the rules name. -/
def Obligations.TraceGrowsByTheNamedOperations : Prop :=
  ∀ (i : Instr) (s t : State), exec i s = .next t → ∃ es, t.outTrace = s.outTrace ++ es ∧
    (∀ id v, Event.cb id v ∈ es → i = .dbSettle ∨ i = .timTick) ∧
    (∀ h a n, Event.send h a n ∈ es → ∃ d, i = .srWrite d a n) ∧
    (∀ h b, Event.tx h b ∈ es → i = .spiByte h) ∧
    (∀ ln v, Event.w ln v ∈ es → (∃ d a n, i = .srWrite d a n) ∨ (∃ h, i = .srComplete h ∨ i = .spiByte h))

/-- R35, R36, R37: no operation of the block writes the configuration. -/
def Obligations.ConfigurationIsNeverWritten : Prop :=
  ∀ (i : Instr) (s t : State), exec i s = .next t → SameConfig s t

/-- R40, R41, R61: only `ENV_STORE` writes memory, and only at its address; only `ENV_LEVEL` writes input levels, and only its line's. -/
def Obligations.OnlyTheEnvironmentWritesMemoryAndInputs : Prop :=
  ∀ (i : Instr) (s t : State), exec i s = .next t →
    (∀ a, (∀ val, i ≠ .envStore a val) → memRead t.mem a = memRead s.mem a) ∧
    (∀ ln, (∀ v, i ≠ .envLevel ln v) → gpioRead t.gpioIn ln = gpioRead s.gpioIn ln)

/-- R1, R110, R140: the two units share no state: an operation of one leaves all the state of the other as it was. The observed
cascades belong to neither: a Debounce operation changes one only where a line of it is shared (U11, log entry 12). -/
def Obligations.UnitsShareNoState : Prop :=
  ∀ (i : Instr) (s t : State), exec i s = .next t →
    (ofDebounceUnit i = true → SameShift s t ∧ t.gpioOut = s.gpioOut ∧ KeepsUnshared s t ∧ t.gpioIn = s.gpioIn ∧
      t.mem = s.mem ∧ ∀ h, periphEvents h t.outTrace = periphEvents h s.outTrace) ∧
    (ofShiftUnit i = true → SameDebounce s t ∧ t.gpioIn = s.gpioIn ∧ t.mem = s.mem ∧
      ∀ id, callbackLevels id t.outTrace = callbackLevels id s.outTrace)

/-- R70 (e), R236: a step of one unit and a step of the other commute: the state of both units, the levels, memory and every projection of
the trace are the same in either order. -/
def Obligations.StepsOfTheTwoUnitsCommute : Prop :=
  ∀ (i j : Instr) (s : State), ofDebounceUnit i = true → ofShiftUnit j = true →
    ∃ si sj t u, exec i s = .next si ∧ exec j si = .next t ∧ exec j s = .next sj ∧ exec i sj = .next u ∧
      SameDebounce t u ∧ SameShift t u ∧ u.gpioOut = t.gpioOut ∧ u.gpioIn = t.gpioIn ∧ u.mem = t.mem ∧
      (∀ ln, lineDrives ln u.outTrace = lineDrives ln t.outTrace) ∧
      (∀ id, callbackLevels id u.outTrace = callbackLevels id t.outTrace) ∧
      (∀ h, periphEvents h u.outTrace = periphEvents h t.outTrace)

/-- R190: an operation whose status is not `OK` changes nothing but the result, except an `SR_WRITE` refused by the peripheral, which has
driven its storage clock low and changed nothing else. -/
def Obligations.FailuresChangeNothing : Prop :=
  ∀ (i : Instr) (s t : State) (r : Word64), exec i s = .next t → t.result = some r → resultStatus r ≠ 0x00#8 →
    t = { s with result := some r } ∨
    (∃ d a n, i = .srWrite d a n ∧ resultStatus r = 0x04#8 ∧
      t = { s with gpioOut := t.gpioOut, outTrace := s.outTrace ++ [.w (d.extractLsb' 16 8) false], cascades := t.cascades,
                   result := some r } ∧
      ∀ ln, drivenLevel t.gpioOut ln = if ln = d.extractLsb' 16 8 then some false else drivenLevel s.gpioOut ln)

/-- R91, R96, R196: which operations produce a result word and which statuses each can return; bits [31:8] are 0, and the value is 0 with
every failure but `PERIPH_ERROR`. -/
def Obligations.ResultsByOperation : Prop :=
  ∀ (i : Instr) (s t : State), WellFormed i → exec i s = .next t →
    (returnsResult i = false → t.result = none) ∧
    (returnsResult i = true → ∃ r, t.result = some r ∧ r.extractLsb' 8 24 = 0#24 ∧
      (resultStatus r ≠ 0x00#8 → resultStatus r ≠ 0x04#8 → resultValue r = 0#32) ∧
      match i with
      | .dbInit _ _ => resultStatus r ∈ [0x00#8, 0x03#8, 0x04#8]
      | .dbRegister _ _ _ _ => resultStatus r ∈ [0x00#8, 0x01#8, 0x02#8]
      | .dbEdge _ => resultStatus r ∈ [0x00#8, 0x03#8]
      | .srCreateGpio _ _ _ => resultStatus r ∈ [0x00#8]
      | .srCreateSpi _ _ => resultStatus r ∈ [0x00#8, 0x01#8, 0x02#8, 0x03#8]
      | .srWrite _ _ _ => resultStatus r ∈ [0x00#8, 0x03#8, 0x04#8]
      | .dbSettle | .timTick | .srComplete _ | .spiByte _ | .spiFail _ | .envLevel _ _ | .envStore _ _ => False)

/-- R23, R28, R30, R32, R33: what is registered stays: an initialised block keeps its timer and period, a registered line keeps its entry
but for `last_state`, which changes only to a level its callback has just been invoked with, and the SPI registry only grows. -/
def Obligations.RegistrationsStay : Prop :=
  ∀ (i : Instr) (s t : State), exec i s = .next t →
    (s.dbInit = true → t.dbInit = true ∧ t.dbTim = s.dbTim ∧ t.dbPeriod = s.dbPeriod) ∧
    (∀ (k : Nat) (e : LineEntry), s.lines[k]? = some e → ∃ v, t.lines[k]? = some { e with lastState := v } ∧
      (v ≠ e.lastState → ∃ es, t.outTrace = s.outTrace ++ es ∧ Event.cb e.cb v ∈ es)) ∧
    s.registry <+: t.registry

/-- R20, R49: no operation reads the result word of the step before or the stimulus still to come, and none changes that stimulus. -/
def Obligations.ResultAndStreamAreNotRead : Prop :=
  ∀ (i : Instr) (s t : State) (r : Option Word64) (stim : List Input), exec i s = .next t →
    exec i { s with result := r, stim := stim } = .next { t with stim := stim } ∧ t.stim = s.stim ∧ t.draws = s.draws

/-- R38, R49: the draws reach the block only through the two collaborators that answer with them: with the same answers the same next
state, whatever the other draws; and no operation but `DB_INIT` and `SR_WRITE` reads any. -/
def Obligations.OnlyTwoOperationsReadTheDraws : Prop :=
  ∀ (i : Instr) (s t : State) (d : Draws), exec i s = .next t →
    ((∀ tim ms, i = .dbInit tim ms → d.timCfgErr = s.draws.timCfgErr) ∧
      (∀ w a n, i = .srWrite w a n → d.spiSendErr = s.draws.spiSendErr)) →
    exec i { s with draws := d } = .next { t with draws := d }
end

