-- ==== Sys2Proof/Laws/Sparse.lean ====
section
/-! SUPPORT. The laws of the sparse maps that hold memory and lines: a read after a write, and the canonical form kept. -/

namespace Sys2Proof.Machine

variable {α : Type}

@[simp] theorem Sparse.get_nil (d : α) (b : Nat) : Sparse.get d [] b = d := rfl

theorem Sparse.get_erase (d : α) (m : Sparse α) (a b : Nat) :
    Sparse.get d (Sparse.erase m a) b = if b = a then d else Sparse.get d m b := by
  induction m with
  | nil => simp [Sparse.erase]
  | cons c m ih =>
    obtain ⟨k, v⟩ := c
    unfold Sparse.erase at ih ⊢
    by_cases hk : k = a
    · subst hk
      simp only [List.filter_cons, bne_self_eq_false, Bool.false_eq_true, if_false, ih, Sparse.get]
      by_cases hb : b = k
      · simp [hb]
      · simp [hb, Ne.symm hb]
    · simp only [List.filter_cons, bne_iff_ne, ne_eq, hk, not_false_iff, if_true, Sparse.get, ih]
      by_cases hb : k = b
      · subst hb; simp [hk]
      · simp [hb]

theorem Sparse.get_insert (d : α) (m : Sparse α) (a b : Nat) (v : α) (h : ∀ c ∈ m, c.1 ≠ a) :
    Sparse.get d (Sparse.insert a v m) b = if b = a then v else Sparse.get d m b := by
  induction m with
  | nil =>
    by_cases hb : b = a
    · simp [Sparse.insert, Sparse.get, hb]
    · simp [Sparse.insert, Sparse.get, hb, Ne.symm hb]
  | cons c m ih =>
    obtain ⟨k, w⟩ := c
    have hk : k ≠ a := h (k, w) (by simp)
    have ih := ih (fun c hc => h c (List.mem_cons_of_mem _ hc))
    by_cases hlt : a < k
    · simp only [Sparse.insert, hlt, if_true, Sparse.get]
      by_cases hb : b = a
      · simp [hb]
      · simp [hb, Ne.symm hb]
    · simp only [Sparse.insert, hlt, if_false, Sparse.get, ih]
      by_cases hb : k = b
      · subst hb; simp [hk]
      · simp [hb]

theorem Sparse.erase_keys_ne (m : Sparse α) (a : Nat) : ∀ c ∈ Sparse.erase m a, c.1 ≠ a := by
  intro c hc
  simpa using (List.mem_filter.mp hc).2

/-- A read after a write: the value written at its key, what was there before anywhere else. -/
theorem Sparse.get_put [DecidableEq α] (d : α) (m : Sparse α) (a b : Nat) (v : α) :
    Sparse.get d (Sparse.put d m a v) b = if b = a then v else Sparse.get d m b := by
  unfold Sparse.put
  split
  · next h => rw [Sparse.get_erase, h]
  · rw [Sparse.get_insert _ _ _ _ _ (Sparse.erase_keys_ne m a), Sparse.get_erase]
    split <;> rfl

theorem Sparse.wfFrom_mono [DecidableEq α] (d : α) (bound : Nat) (m : Sparse α) {lo lo' : Nat} (h : lo' ≤ lo)
    (hm : Sparse.wfFrom d bound lo m = true) : Sparse.wfFrom d bound lo' m = true := by
  cases m with
  | nil => rfl
  | cons c m =>
    simp only [Sparse.wfFrom, Bool.and_eq_true, decide_eq_true_eq] at hm ⊢
    exact ⟨⟨⟨le_trans h hm.1.1.1, hm.1.1.2⟩, hm.1.2⟩, hm.2⟩

theorem Sparse.wfFrom_erase [DecidableEq α] (d : α) (bound : Nat) (m : Sparse α) (a lo : Nat)
    (hm : Sparse.wfFrom d bound lo m = true) : Sparse.wfFrom d bound lo (Sparse.erase m a) = true := by
  induction m generalizing lo with
  | nil => rfl
  | cons c m ih =>
    obtain ⟨k, v⟩ := c
    unfold Sparse.erase at ih ⊢
    simp only [Sparse.wfFrom, Bool.and_eq_true, decide_eq_true_eq] at hm
    by_cases hk : k = a
    · simp only [List.filter_cons, hk, bne_self_eq_false, Bool.false_eq_true, if_false]
      exact Sparse.wfFrom_mono d bound _ (by omega) (ih (k + 1) hm.2)
    · simp only [List.filter_cons, bne_iff_ne, ne_eq, hk, not_false_iff, if_true, Sparse.wfFrom, Bool.and_eq_true,
        decide_eq_true_eq]
      exact ⟨hm.1, ih (k + 1) hm.2⟩

theorem Sparse.wfFrom_insert [DecidableEq α] (d : α) (bound : Nat) (m : Sparse α) (a lo : Nat) (v : α)
    (hlo : lo ≤ a) (ha : a < bound) (hv : v ≠ d) (hne : ∀ c ∈ m, c.1 ≠ a)
    (hm : Sparse.wfFrom d bound lo m = true) : Sparse.wfFrom d bound lo (Sparse.insert a v m) = true := by
  induction m generalizing lo with
  | nil => simp [Sparse.insert, Sparse.wfFrom, hlo, ha, hv]
  | cons c m ih =>
    obtain ⟨k, w⟩ := c
    have hk : k ≠ a := hne (k, w) (by simp)
    simp only [Sparse.wfFrom, Bool.and_eq_true, decide_eq_true_eq] at hm
    by_cases hlt : a < k
    · simp only [Sparse.insert, hlt, if_true, Sparse.wfFrom, Bool.and_eq_true, decide_eq_true_eq]
      exact ⟨⟨⟨hlo, ha⟩, hv⟩, ⟨⟨by omega, hm.1.1.2⟩, hm.1.2⟩, hm.2⟩
    · simp only [Sparse.insert, hlt, if_false, Sparse.wfFrom, Bool.and_eq_true, decide_eq_true_eq]
      exact ⟨hm.1, ih (k + 1) (by omega) (fun c hc => hne c (List.mem_cons_of_mem _ hc)) hm.2⟩

/-- A write below the bound keeps the canonical form. -/
theorem Sparse.wf_put [DecidableEq α] (d : α) (bound : Nat) (m : Sparse α) (a : Nat) (v : α) (ha : a < bound)
    (hm : Sparse.wf d bound m = true) : Sparse.wf d bound (Sparse.put d m a v) = true := by
  unfold Sparse.wf Sparse.put at *
  split
  · exact Sparse.wfFrom_erase d bound m a 0 hm
  · next hv =>
    exact Sparse.wfFrom_insert d bound _ a 0 v (Nat.zero_le _) ha hv (Sparse.erase_keys_ne m a)
      (Sparse.wfFrom_erase d bound m a 0 hm)

/-- `MemRead` after `MemWrite` (R61). -/
@[simp] theorem memRead_memWrite (s : State) (a b : Addr) (v : Byte) :
    memRead (s.memWrite a v).mem b = if b = a then v else memRead s.mem b := by
  simp only [memRead, State.memWrite, Sparse.get_put, BitVec.toNat_inj]

/-- `MemWrite` keeps the canonical form of memory. -/
theorem memWrite_wf (s : State) (a : Addr) (v : Byte) (h : Memory.wf s.mem = true) : Memory.wf (s.memWrite a v).mem = true :=
  Sparse.wf_put unlistedByte 65536 s.mem a.toNat v a.isLt h

/-- `GpioRead` after an input line took a level (R41, R170). -/
@[simp] theorem gpioRead_setInput (s : State) (ln ln' : LineId) (v : Level) :
    gpioRead (s.setInput ln v).gpioIn ln' = if ln' = ln then v else gpioRead s.gpioIn ln' := by
  simp only [gpioRead, State.setInput, Sparse.get_put, BitVec.toNat_inj]

/-- An input that takes a level keeps the canonical form of the input levels. -/
theorem setInput_wf (s : State) (ln : LineId) (v : Level) (h : Sparse.wf unlistedLevel 256 s.gpioIn = true) :
    Sparse.wf unlistedLevel 256 (s.setInput ln v).gpioIn = true :=
  Sparse.wf_put unlistedLevel 256 s.gpioIn ln.toNat v ln.isLt h

/-- The driven levels after `GpioWrite` (R8, R42). -/
@[simp] theorem drivenLevel_gpioWrite (s : State) (ln ln' : LineId) (v : Level) :
    drivenLevel (s.gpioWrite ln v).gpioOut ln' = if ln' = ln then some v else drivenLevel s.gpioOut ln' := by
  simp only [drivenLevel, State.gpioWrite, Sparse.get_put, BitVec.toNat_inj]

/-- `GpioWrite` keeps the canonical form of the output levels. -/
theorem gpioWrite_wf (s : State) (ln : LineId) (v : Level) (h : Sparse.wf none 256 s.gpioOut = true) :
    Sparse.wf none 256 (s.gpioWrite ln v).gpioOut = true :=
  Sparse.wf_put none 256 s.gpioOut ln.toNat (some v) ln.isLt h

/-- Reset memory, with nothing listed, has the canonical form. -/
theorem reset_mem_wf : Memory.wf State.reset.mem = true := rfl

end Sys2Proof.Machine
end

