-- ==== Sys2Proof/Laws/State.lean ====
section
/-! SUPPORT. One lemma per field per update of the state, so that no proof unfolds a record update. The updates of the first part
are true by unfolding; those of the second leave the fields named as they were. -/

namespace Sys2Proof.Machine

/-! ### `State.ret` -/

@[simp] theorem State.ret_dbInit (s : State) (st : Status) (v : ResultValue) : (s.ret st v).dbInit = s.dbInit := rfl
@[simp] theorem State.ret_dbTim (s : State) (st : Status) (v : ResultValue) : (s.ret st v).dbTim = s.dbTim := rfl
@[simp] theorem State.ret_dbPeriod (s : State) (st : Status) (v : ResultValue) : (s.ret st v).dbPeriod = s.dbPeriod := rfl
@[simp] theorem State.ret_timRun (s : State) (st : Status) (v : ResultValue) : (s.ret st v).timRun = s.timRun := rfl
@[simp] theorem State.ret_timCnt (s : State) (st : Status) (v : ResultValue) : (s.ret st v).timCnt = s.timCnt := rfl
@[simp] theorem State.ret_dbCount (s : State) (st : Status) (v : ResultValue) : (s.ret st v).dbCount = s.dbCount := rfl
@[simp] theorem State.ret_dbMask (s : State) (st : Status) (v : ResultValue) : (s.ret st v).dbMask = s.dbMask := rfl
@[simp] theorem State.ret_line (s : State) (st : Status) (v : ResultValue) : (s.ret st v).line = s.line := rfl
@[simp] theorem State.ret_spiRegCount (s : State) (st : Status) (v : ResultValue) : (s.ret st v).spiRegCount = s.spiRegCount := rfl
@[simp] theorem State.ret_spiReg (s : State) (st : Status) (v : ResultValue) : (s.ret st v).spiReg = s.spiReg := rfl
@[simp] theorem State.ret_spi (s : State) (st : Status) (v : ResultValue) : (s.ret st v).spi = s.spi := rfl
@[simp] theorem State.ret_extiImr (s : State) (st : Status) (v : ResultValue) : (s.ret st v).extiImr = s.extiImr := rfl
@[simp] theorem State.ret_extiPortsel (s : State) (st : Status) (v : ResultValue) : (s.ret st v).extiPortsel = s.extiPortsel := rfl
@[simp] theorem State.ret_spiCfg (s : State) (st : Status) (v : ResultValue) : (s.ret st v).spiCfg = s.spiCfg := rfl
@[simp] theorem State.ret_mem (s : State) (st : Status) (v : ResultValue) : (s.ret st v).mem = s.mem := rfl
@[simp] theorem State.ret_gpioIn (s : State) (st : Status) (v : ResultValue) : (s.ret st v).gpioIn = s.gpioIn := rfl
@[simp] theorem State.ret_gpioOut (s : State) (st : Status) (v : ResultValue) : (s.ret st v).gpioOut = s.gpioOut := rfl
@[simp] theorem State.ret_outTrace (s : State) (st : Status) (v : ResultValue) : (s.ret st v).outTrace = s.outTrace := rfl
@[simp] theorem State.ret_cascades (s : State) (st : Status) (v : ResultValue) : (s.ret st v).cascades = s.cascades := rfl
@[simp] theorem State.ret_stim (s : State) (st : Status) (v : ResultValue) : (s.ret st v).stim = s.stim := rfl
@[simp] theorem State.ret_draws (s : State) (st : Status) (v : ResultValue) : (s.ret st v).draws = s.draws := rfl
@[simp] theorem State.ret_result (s : State) (st : Status) (v : ResultValue) : (s.ret st v).result = some (resultWord st v) := rfl

/-! ### `State.retPeriphError` -/

@[simp] theorem State.retPeriphError_dbInit (s : State) (e : ErrCode) : (s.retPeriphError e).dbInit = s.dbInit := rfl
@[simp] theorem State.retPeriphError_dbTim (s : State) (e : ErrCode) : (s.retPeriphError e).dbTim = s.dbTim := rfl
@[simp] theorem State.retPeriphError_dbPeriod (s : State) (e : ErrCode) : (s.retPeriphError e).dbPeriod = s.dbPeriod := rfl
@[simp] theorem State.retPeriphError_timRun (s : State) (e : ErrCode) : (s.retPeriphError e).timRun = s.timRun := rfl
@[simp] theorem State.retPeriphError_timCnt (s : State) (e : ErrCode) : (s.retPeriphError e).timCnt = s.timCnt := rfl
@[simp] theorem State.retPeriphError_dbCount (s : State) (e : ErrCode) : (s.retPeriphError e).dbCount = s.dbCount := rfl
@[simp] theorem State.retPeriphError_dbMask (s : State) (e : ErrCode) : (s.retPeriphError e).dbMask = s.dbMask := rfl
@[simp] theorem State.retPeriphError_line (s : State) (e : ErrCode) : (s.retPeriphError e).line = s.line := rfl
@[simp] theorem State.retPeriphError_spiRegCount (s : State) (e : ErrCode) : (s.retPeriphError e).spiRegCount = s.spiRegCount := rfl
@[simp] theorem State.retPeriphError_spiReg (s : State) (e : ErrCode) : (s.retPeriphError e).spiReg = s.spiReg := rfl
@[simp] theorem State.retPeriphError_spi (s : State) (e : ErrCode) : (s.retPeriphError e).spi = s.spi := rfl
@[simp] theorem State.retPeriphError_extiImr (s : State) (e : ErrCode) : (s.retPeriphError e).extiImr = s.extiImr := rfl
@[simp] theorem State.retPeriphError_extiPortsel (s : State) (e : ErrCode) : (s.retPeriphError e).extiPortsel = s.extiPortsel := rfl
@[simp] theorem State.retPeriphError_spiCfg (s : State) (e : ErrCode) : (s.retPeriphError e).spiCfg = s.spiCfg := rfl
@[simp] theorem State.retPeriphError_mem (s : State) (e : ErrCode) : (s.retPeriphError e).mem = s.mem := rfl
@[simp] theorem State.retPeriphError_gpioIn (s : State) (e : ErrCode) : (s.retPeriphError e).gpioIn = s.gpioIn := rfl
@[simp] theorem State.retPeriphError_gpioOut (s : State) (e : ErrCode) : (s.retPeriphError e).gpioOut = s.gpioOut := rfl
@[simp] theorem State.retPeriphError_outTrace (s : State) (e : ErrCode) : (s.retPeriphError e).outTrace = s.outTrace := rfl
@[simp] theorem State.retPeriphError_cascades (s : State) (e : ErrCode) : (s.retPeriphError e).cascades = s.cascades := rfl
@[simp] theorem State.retPeriphError_stim (s : State) (e : ErrCode) : (s.retPeriphError e).stim = s.stim := rfl
@[simp] theorem State.retPeriphError_draws (s : State) (e : ErrCode) : (s.retPeriphError e).draws = s.draws := rfl
@[simp] theorem State.retPeriphError_result (s : State) (e : ErrCode) : (s.retPeriphError e).result = some (resultWord .periphError (e.setWidth 32)) := rfl

/-! ### `State.illegal` -/

@[simp] theorem State.illegal_dbInit (s : State) : (s.illegal).dbInit = s.dbInit := rfl
@[simp] theorem State.illegal_dbTim (s : State) : (s.illegal).dbTim = s.dbTim := rfl
@[simp] theorem State.illegal_dbPeriod (s : State) : (s.illegal).dbPeriod = s.dbPeriod := rfl
@[simp] theorem State.illegal_timRun (s : State) : (s.illegal).timRun = s.timRun := rfl
@[simp] theorem State.illegal_timCnt (s : State) : (s.illegal).timCnt = s.timCnt := rfl
@[simp] theorem State.illegal_dbCount (s : State) : (s.illegal).dbCount = s.dbCount := rfl
@[simp] theorem State.illegal_dbMask (s : State) : (s.illegal).dbMask = s.dbMask := rfl
@[simp] theorem State.illegal_line (s : State) : (s.illegal).line = s.line := rfl
@[simp] theorem State.illegal_spiRegCount (s : State) : (s.illegal).spiRegCount = s.spiRegCount := rfl
@[simp] theorem State.illegal_spiReg (s : State) : (s.illegal).spiReg = s.spiReg := rfl
@[simp] theorem State.illegal_spi (s : State) : (s.illegal).spi = s.spi := rfl
@[simp] theorem State.illegal_extiImr (s : State) : (s.illegal).extiImr = s.extiImr := rfl
@[simp] theorem State.illegal_extiPortsel (s : State) : (s.illegal).extiPortsel = s.extiPortsel := rfl
@[simp] theorem State.illegal_spiCfg (s : State) : (s.illegal).spiCfg = s.spiCfg := rfl
@[simp] theorem State.illegal_mem (s : State) : (s.illegal).mem = s.mem := rfl
@[simp] theorem State.illegal_gpioIn (s : State) : (s.illegal).gpioIn = s.gpioIn := rfl
@[simp] theorem State.illegal_gpioOut (s : State) : (s.illegal).gpioOut = s.gpioOut := rfl
@[simp] theorem State.illegal_outTrace (s : State) : (s.illegal).outTrace = s.outTrace := rfl
@[simp] theorem State.illegal_cascades (s : State) : (s.illegal).cascades = s.cascades := rfl
@[simp] theorem State.illegal_stim (s : State) : (s.illegal).stim = s.stim := rfl
@[simp] theorem State.illegal_draws (s : State) : (s.illegal).draws = s.draws := rfl
@[simp] theorem State.illegal_result (s : State) : (s.illegal).result = some (resultWord .illegal 0#32) := rfl

/-! ### `State.done` -/

@[simp] theorem State.done_dbInit (s : State) : (s.done).dbInit = s.dbInit := rfl
@[simp] theorem State.done_dbTim (s : State) : (s.done).dbTim = s.dbTim := rfl
@[simp] theorem State.done_dbPeriod (s : State) : (s.done).dbPeriod = s.dbPeriod := rfl
@[simp] theorem State.done_timRun (s : State) : (s.done).timRun = s.timRun := rfl
@[simp] theorem State.done_timCnt (s : State) : (s.done).timCnt = s.timCnt := rfl
@[simp] theorem State.done_dbCount (s : State) : (s.done).dbCount = s.dbCount := rfl
@[simp] theorem State.done_dbMask (s : State) : (s.done).dbMask = s.dbMask := rfl
@[simp] theorem State.done_line (s : State) : (s.done).line = s.line := rfl
@[simp] theorem State.done_spiRegCount (s : State) : (s.done).spiRegCount = s.spiRegCount := rfl
@[simp] theorem State.done_spiReg (s : State) : (s.done).spiReg = s.spiReg := rfl
@[simp] theorem State.done_spi (s : State) : (s.done).spi = s.spi := rfl
@[simp] theorem State.done_extiImr (s : State) : (s.done).extiImr = s.extiImr := rfl
@[simp] theorem State.done_extiPortsel (s : State) : (s.done).extiPortsel = s.extiPortsel := rfl
@[simp] theorem State.done_spiCfg (s : State) : (s.done).spiCfg = s.spiCfg := rfl
@[simp] theorem State.done_mem (s : State) : (s.done).mem = s.mem := rfl
@[simp] theorem State.done_gpioIn (s : State) : (s.done).gpioIn = s.gpioIn := rfl
@[simp] theorem State.done_gpioOut (s : State) : (s.done).gpioOut = s.gpioOut := rfl
@[simp] theorem State.done_outTrace (s : State) : (s.done).outTrace = s.outTrace := rfl
@[simp] theorem State.done_cascades (s : State) : (s.done).cascades = s.cascades := rfl
@[simp] theorem State.done_stim (s : State) : (s.done).stim = s.stim := rfl
@[simp] theorem State.done_draws (s : State) : (s.done).draws = s.draws := rfl
@[simp] theorem State.done_result (s : State) : (s.done).result = none := rfl

/-! ### `State.timerStop` -/

@[simp] theorem State.timerStop_dbInit (s : State) : (s.timerStop).dbInit = s.dbInit := rfl
@[simp] theorem State.timerStop_dbTim (s : State) : (s.timerStop).dbTim = s.dbTim := rfl
@[simp] theorem State.timerStop_dbPeriod (s : State) : (s.timerStop).dbPeriod = s.dbPeriod := rfl
@[simp] theorem State.timerStop_timRun (s : State) : (s.timerStop).timRun = false := rfl
@[simp] theorem State.timerStop_timCnt (s : State) : (s.timerStop).timCnt = s.timCnt := rfl
@[simp] theorem State.timerStop_dbCount (s : State) : (s.timerStop).dbCount = s.dbCount := rfl
@[simp] theorem State.timerStop_dbMask (s : State) : (s.timerStop).dbMask = s.dbMask := rfl
@[simp] theorem State.timerStop_line (s : State) : (s.timerStop).line = s.line := rfl
@[simp] theorem State.timerStop_spiRegCount (s : State) : (s.timerStop).spiRegCount = s.spiRegCount := rfl
@[simp] theorem State.timerStop_spiReg (s : State) : (s.timerStop).spiReg = s.spiReg := rfl
@[simp] theorem State.timerStop_spi (s : State) : (s.timerStop).spi = s.spi := rfl
@[simp] theorem State.timerStop_extiImr (s : State) : (s.timerStop).extiImr = s.extiImr := rfl
@[simp] theorem State.timerStop_extiPortsel (s : State) : (s.timerStop).extiPortsel = s.extiPortsel := rfl
@[simp] theorem State.timerStop_spiCfg (s : State) : (s.timerStop).spiCfg = s.spiCfg := rfl
@[simp] theorem State.timerStop_mem (s : State) : (s.timerStop).mem = s.mem := rfl
@[simp] theorem State.timerStop_gpioIn (s : State) : (s.timerStop).gpioIn = s.gpioIn := rfl
@[simp] theorem State.timerStop_gpioOut (s : State) : (s.timerStop).gpioOut = s.gpioOut := rfl
@[simp] theorem State.timerStop_outTrace (s : State) : (s.timerStop).outTrace = s.outTrace := rfl
@[simp] theorem State.timerStop_cascades (s : State) : (s.timerStop).cascades = s.cascades := rfl
@[simp] theorem State.timerStop_stim (s : State) : (s.timerStop).stim = s.stim := rfl
@[simp] theorem State.timerStop_draws (s : State) : (s.timerStop).draws = s.draws := rfl
@[simp] theorem State.timerStop_result (s : State) : (s.timerStop).result = s.result := rfl

/-! ### `State.timerStart` -/

@[simp] theorem State.timerStart_dbInit (s : State) : (s.timerStart).dbInit = s.dbInit := rfl
@[simp] theorem State.timerStart_dbTim (s : State) : (s.timerStart).dbTim = s.dbTim := rfl
@[simp] theorem State.timerStart_dbPeriod (s : State) : (s.timerStart).dbPeriod = s.dbPeriod := rfl
@[simp] theorem State.timerStart_timRun (s : State) : (s.timerStart).timRun = true := rfl
@[simp] theorem State.timerStart_timCnt (s : State) : (s.timerStart).timCnt = s.timCnt := rfl
@[simp] theorem State.timerStart_dbCount (s : State) : (s.timerStart).dbCount = s.dbCount := rfl
@[simp] theorem State.timerStart_dbMask (s : State) : (s.timerStart).dbMask = s.dbMask := rfl
@[simp] theorem State.timerStart_line (s : State) : (s.timerStart).line = s.line := rfl
@[simp] theorem State.timerStart_spiRegCount (s : State) : (s.timerStart).spiRegCount = s.spiRegCount := rfl
@[simp] theorem State.timerStart_spiReg (s : State) : (s.timerStart).spiReg = s.spiReg := rfl
@[simp] theorem State.timerStart_spi (s : State) : (s.timerStart).spi = s.spi := rfl
@[simp] theorem State.timerStart_extiImr (s : State) : (s.timerStart).extiImr = s.extiImr := rfl
@[simp] theorem State.timerStart_extiPortsel (s : State) : (s.timerStart).extiPortsel = s.extiPortsel := rfl
@[simp] theorem State.timerStart_spiCfg (s : State) : (s.timerStart).spiCfg = s.spiCfg := rfl
@[simp] theorem State.timerStart_mem (s : State) : (s.timerStart).mem = s.mem := rfl
@[simp] theorem State.timerStart_gpioIn (s : State) : (s.timerStart).gpioIn = s.gpioIn := rfl
@[simp] theorem State.timerStart_gpioOut (s : State) : (s.timerStart).gpioOut = s.gpioOut := rfl
@[simp] theorem State.timerStart_outTrace (s : State) : (s.timerStart).outTrace = s.outTrace := rfl
@[simp] theorem State.timerStart_cascades (s : State) : (s.timerStart).cascades = s.cascades := rfl
@[simp] theorem State.timerStart_stim (s : State) : (s.timerStart).stim = s.stim := rfl
@[simp] theorem State.timerStart_draws (s : State) : (s.timerStart).draws = s.draws := rfl
@[simp] theorem State.timerStart_result (s : State) : (s.timerStart).result = s.result := rfl

/-! ### `State.timerCount` -/

@[simp] theorem State.timerCount_dbInit (s : State) (n : Ticks) : (s.timerCount n).dbInit = s.dbInit := rfl
@[simp] theorem State.timerCount_dbTim (s : State) (n : Ticks) : (s.timerCount n).dbTim = s.dbTim := rfl
@[simp] theorem State.timerCount_dbPeriod (s : State) (n : Ticks) : (s.timerCount n).dbPeriod = s.dbPeriod := rfl
@[simp] theorem State.timerCount_timRun (s : State) (n : Ticks) : (s.timerCount n).timRun = s.timRun := rfl
@[simp] theorem State.timerCount_timCnt (s : State) (n : Ticks) : (s.timerCount n).timCnt = n := rfl
@[simp] theorem State.timerCount_dbCount (s : State) (n : Ticks) : (s.timerCount n).dbCount = s.dbCount := rfl
@[simp] theorem State.timerCount_dbMask (s : State) (n : Ticks) : (s.timerCount n).dbMask = s.dbMask := rfl
@[simp] theorem State.timerCount_line (s : State) (n : Ticks) : (s.timerCount n).line = s.line := rfl
@[simp] theorem State.timerCount_spiRegCount (s : State) (n : Ticks) : (s.timerCount n).spiRegCount = s.spiRegCount := rfl
@[simp] theorem State.timerCount_spiReg (s : State) (n : Ticks) : (s.timerCount n).spiReg = s.spiReg := rfl
@[simp] theorem State.timerCount_spi (s : State) (n : Ticks) : (s.timerCount n).spi = s.spi := rfl
@[simp] theorem State.timerCount_extiImr (s : State) (n : Ticks) : (s.timerCount n).extiImr = s.extiImr := rfl
@[simp] theorem State.timerCount_extiPortsel (s : State) (n : Ticks) : (s.timerCount n).extiPortsel = s.extiPortsel := rfl
@[simp] theorem State.timerCount_spiCfg (s : State) (n : Ticks) : (s.timerCount n).spiCfg = s.spiCfg := rfl
@[simp] theorem State.timerCount_mem (s : State) (n : Ticks) : (s.timerCount n).mem = s.mem := rfl
@[simp] theorem State.timerCount_gpioIn (s : State) (n : Ticks) : (s.timerCount n).gpioIn = s.gpioIn := rfl
@[simp] theorem State.timerCount_gpioOut (s : State) (n : Ticks) : (s.timerCount n).gpioOut = s.gpioOut := rfl
@[simp] theorem State.timerCount_outTrace (s : State) (n : Ticks) : (s.timerCount n).outTrace = s.outTrace := rfl
@[simp] theorem State.timerCount_cascades (s : State) (n : Ticks) : (s.timerCount n).cascades = s.cascades := rfl
@[simp] theorem State.timerCount_stim (s : State) (n : Ticks) : (s.timerCount n).stim = s.stim := rfl
@[simp] theorem State.timerCount_draws (s : State) (n : Ticks) : (s.timerCount n).draws = s.draws := rfl
@[simp] theorem State.timerCount_result (s : State) (n : Ticks) : (s.timerCount n).result = s.result := rfl

/-! ### `State.memWrite` -/

@[simp] theorem State.memWrite_dbInit (s : State) (a : Addr) (v : Byte) : (s.memWrite a v).dbInit = s.dbInit := rfl
@[simp] theorem State.memWrite_dbTim (s : State) (a : Addr) (v : Byte) : (s.memWrite a v).dbTim = s.dbTim := rfl
@[simp] theorem State.memWrite_dbPeriod (s : State) (a : Addr) (v : Byte) : (s.memWrite a v).dbPeriod = s.dbPeriod := rfl
@[simp] theorem State.memWrite_timRun (s : State) (a : Addr) (v : Byte) : (s.memWrite a v).timRun = s.timRun := rfl
@[simp] theorem State.memWrite_timCnt (s : State) (a : Addr) (v : Byte) : (s.memWrite a v).timCnt = s.timCnt := rfl
@[simp] theorem State.memWrite_dbCount (s : State) (a : Addr) (v : Byte) : (s.memWrite a v).dbCount = s.dbCount := rfl
@[simp] theorem State.memWrite_dbMask (s : State) (a : Addr) (v : Byte) : (s.memWrite a v).dbMask = s.dbMask := rfl
@[simp] theorem State.memWrite_line (s : State) (a : Addr) (v : Byte) : (s.memWrite a v).line = s.line := rfl
@[simp] theorem State.memWrite_spiRegCount (s : State) (a : Addr) (v : Byte) : (s.memWrite a v).spiRegCount = s.spiRegCount := rfl
@[simp] theorem State.memWrite_spiReg (s : State) (a : Addr) (v : Byte) : (s.memWrite a v).spiReg = s.spiReg := rfl
@[simp] theorem State.memWrite_spi (s : State) (a : Addr) (v : Byte) : (s.memWrite a v).spi = s.spi := rfl
@[simp] theorem State.memWrite_extiImr (s : State) (a : Addr) (v : Byte) : (s.memWrite a v).extiImr = s.extiImr := rfl
@[simp] theorem State.memWrite_extiPortsel (s : State) (a : Addr) (v : Byte) : (s.memWrite a v).extiPortsel = s.extiPortsel := rfl
@[simp] theorem State.memWrite_spiCfg (s : State) (a : Addr) (v : Byte) : (s.memWrite a v).spiCfg = s.spiCfg := rfl
@[simp] theorem State.memWrite_mem (s : State) (a : Addr) (v : Byte) : (s.memWrite a v).mem = Sparse.put unlistedByte s.mem a.toNat v := rfl
@[simp] theorem State.memWrite_gpioIn (s : State) (a : Addr) (v : Byte) : (s.memWrite a v).gpioIn = s.gpioIn := rfl
@[simp] theorem State.memWrite_gpioOut (s : State) (a : Addr) (v : Byte) : (s.memWrite a v).gpioOut = s.gpioOut := rfl
@[simp] theorem State.memWrite_outTrace (s : State) (a : Addr) (v : Byte) : (s.memWrite a v).outTrace = s.outTrace := rfl
@[simp] theorem State.memWrite_cascades (s : State) (a : Addr) (v : Byte) : (s.memWrite a v).cascades = s.cascades := rfl
@[simp] theorem State.memWrite_stim (s : State) (a : Addr) (v : Byte) : (s.memWrite a v).stim = s.stim := rfl
@[simp] theorem State.memWrite_draws (s : State) (a : Addr) (v : Byte) : (s.memWrite a v).draws = s.draws := rfl
@[simp] theorem State.memWrite_result (s : State) (a : Addr) (v : Byte) : (s.memWrite a v).result = s.result := rfl

/-! ### `State.setInput` -/

@[simp] theorem State.setInput_dbInit (s : State) (ln : LineId) (v : Level) : (s.setInput ln v).dbInit = s.dbInit := rfl
@[simp] theorem State.setInput_dbTim (s : State) (ln : LineId) (v : Level) : (s.setInput ln v).dbTim = s.dbTim := rfl
@[simp] theorem State.setInput_dbPeriod (s : State) (ln : LineId) (v : Level) : (s.setInput ln v).dbPeriod = s.dbPeriod := rfl
@[simp] theorem State.setInput_timRun (s : State) (ln : LineId) (v : Level) : (s.setInput ln v).timRun = s.timRun := rfl
@[simp] theorem State.setInput_timCnt (s : State) (ln : LineId) (v : Level) : (s.setInput ln v).timCnt = s.timCnt := rfl
@[simp] theorem State.setInput_dbCount (s : State) (ln : LineId) (v : Level) : (s.setInput ln v).dbCount = s.dbCount := rfl
@[simp] theorem State.setInput_dbMask (s : State) (ln : LineId) (v : Level) : (s.setInput ln v).dbMask = s.dbMask := rfl
@[simp] theorem State.setInput_line (s : State) (ln : LineId) (v : Level) : (s.setInput ln v).line = s.line := rfl
@[simp] theorem State.setInput_spiRegCount (s : State) (ln : LineId) (v : Level) : (s.setInput ln v).spiRegCount = s.spiRegCount := rfl
@[simp] theorem State.setInput_spiReg (s : State) (ln : LineId) (v : Level) : (s.setInput ln v).spiReg = s.spiReg := rfl
@[simp] theorem State.setInput_spi (s : State) (ln : LineId) (v : Level) : (s.setInput ln v).spi = s.spi := rfl
@[simp] theorem State.setInput_extiImr (s : State) (ln : LineId) (v : Level) : (s.setInput ln v).extiImr = s.extiImr := rfl
@[simp] theorem State.setInput_extiPortsel (s : State) (ln : LineId) (v : Level) : (s.setInput ln v).extiPortsel = s.extiPortsel := rfl
@[simp] theorem State.setInput_spiCfg (s : State) (ln : LineId) (v : Level) : (s.setInput ln v).spiCfg = s.spiCfg := rfl
@[simp] theorem State.setInput_mem (s : State) (ln : LineId) (v : Level) : (s.setInput ln v).mem = s.mem := rfl
@[simp] theorem State.setInput_gpioIn (s : State) (ln : LineId) (v : Level) : (s.setInput ln v).gpioIn = Sparse.put unlistedLevel s.gpioIn ln.toNat v := rfl
@[simp] theorem State.setInput_gpioOut (s : State) (ln : LineId) (v : Level) : (s.setInput ln v).gpioOut = s.gpioOut := rfl
@[simp] theorem State.setInput_outTrace (s : State) (ln : LineId) (v : Level) : (s.setInput ln v).outTrace = s.outTrace := rfl
@[simp] theorem State.setInput_cascades (s : State) (ln : LineId) (v : Level) : (s.setInput ln v).cascades = s.cascades := rfl
@[simp] theorem State.setInput_stim (s : State) (ln : LineId) (v : Level) : (s.setInput ln v).stim = s.stim := rfl
@[simp] theorem State.setInput_draws (s : State) (ln : LineId) (v : Level) : (s.setInput ln v).draws = s.draws := rfl
@[simp] theorem State.setInput_result (s : State) (ln : LineId) (v : Level) : (s.setInput ln v).result = s.result := rfl

/-! ### `State.gpioWrite` -/

@[simp] theorem State.gpioWrite_dbInit (s : State) (ln : LineId) (v : Level) : (s.gpioWrite ln v).dbInit = s.dbInit := rfl
@[simp] theorem State.gpioWrite_dbTim (s : State) (ln : LineId) (v : Level) : (s.gpioWrite ln v).dbTim = s.dbTim := rfl
@[simp] theorem State.gpioWrite_dbPeriod (s : State) (ln : LineId) (v : Level) : (s.gpioWrite ln v).dbPeriod = s.dbPeriod := rfl
@[simp] theorem State.gpioWrite_timRun (s : State) (ln : LineId) (v : Level) : (s.gpioWrite ln v).timRun = s.timRun := rfl
@[simp] theorem State.gpioWrite_timCnt (s : State) (ln : LineId) (v : Level) : (s.gpioWrite ln v).timCnt = s.timCnt := rfl
@[simp] theorem State.gpioWrite_dbCount (s : State) (ln : LineId) (v : Level) : (s.gpioWrite ln v).dbCount = s.dbCount := rfl
@[simp] theorem State.gpioWrite_dbMask (s : State) (ln : LineId) (v : Level) : (s.gpioWrite ln v).dbMask = s.dbMask := rfl
@[simp] theorem State.gpioWrite_line (s : State) (ln : LineId) (v : Level) : (s.gpioWrite ln v).line = s.line := rfl
@[simp] theorem State.gpioWrite_spiRegCount (s : State) (ln : LineId) (v : Level) : (s.gpioWrite ln v).spiRegCount = s.spiRegCount := rfl
@[simp] theorem State.gpioWrite_spiReg (s : State) (ln : LineId) (v : Level) : (s.gpioWrite ln v).spiReg = s.spiReg := rfl
@[simp] theorem State.gpioWrite_spi (s : State) (ln : LineId) (v : Level) : (s.gpioWrite ln v).spi = s.spi := rfl
@[simp] theorem State.gpioWrite_extiImr (s : State) (ln : LineId) (v : Level) : (s.gpioWrite ln v).extiImr = s.extiImr := rfl
@[simp] theorem State.gpioWrite_extiPortsel (s : State) (ln : LineId) (v : Level) : (s.gpioWrite ln v).extiPortsel = s.extiPortsel := rfl
@[simp] theorem State.gpioWrite_spiCfg (s : State) (ln : LineId) (v : Level) : (s.gpioWrite ln v).spiCfg = s.spiCfg := rfl
@[simp] theorem State.gpioWrite_mem (s : State) (ln : LineId) (v : Level) : (s.gpioWrite ln v).mem = s.mem := rfl
@[simp] theorem State.gpioWrite_gpioIn (s : State) (ln : LineId) (v : Level) : (s.gpioWrite ln v).gpioIn = s.gpioIn := rfl
@[simp] theorem State.gpioWrite_gpioOut (s : State) (ln : LineId) (v : Level) : (s.gpioWrite ln v).gpioOut = Sparse.put none s.gpioOut ln.toNat (some v) := rfl
@[simp] theorem State.gpioWrite_outTrace (s : State) (ln : LineId) (v : Level) : (s.gpioWrite ln v).outTrace = s.outTrace ++ [.w ln v] := rfl
@[simp] theorem State.gpioWrite_cascades (s : State) (ln : LineId) (v : Level) : (s.gpioWrite ln v).cascades = observeDrive s.gpioOut ln v s.outTrace.length 0 s.cascades := rfl
@[simp] theorem State.gpioWrite_stim (s : State) (ln : LineId) (v : Level) : (s.gpioWrite ln v).stim = s.stim := rfl
@[simp] theorem State.gpioWrite_draws (s : State) (ln : LineId) (v : Level) : (s.gpioWrite ln v).draws = s.draws := rfl
@[simp] theorem State.gpioWrite_result (s : State) (ln : LineId) (v : Level) : (s.gpioWrite ln v).result = s.result := rfl

/-! ### `State.callback` -/

@[simp] theorem State.callback_dbInit (s : State) (id : CallbackId) (v : Level) : (s.callback id v).dbInit = s.dbInit := rfl
@[simp] theorem State.callback_dbTim (s : State) (id : CallbackId) (v : Level) : (s.callback id v).dbTim = s.dbTim := rfl
@[simp] theorem State.callback_dbPeriod (s : State) (id : CallbackId) (v : Level) : (s.callback id v).dbPeriod = s.dbPeriod := rfl
@[simp] theorem State.callback_timRun (s : State) (id : CallbackId) (v : Level) : (s.callback id v).timRun = s.timRun := rfl
@[simp] theorem State.callback_timCnt (s : State) (id : CallbackId) (v : Level) : (s.callback id v).timCnt = s.timCnt := rfl
@[simp] theorem State.callback_dbCount (s : State) (id : CallbackId) (v : Level) : (s.callback id v).dbCount = s.dbCount := rfl
@[simp] theorem State.callback_dbMask (s : State) (id : CallbackId) (v : Level) : (s.callback id v).dbMask = s.dbMask := rfl
@[simp] theorem State.callback_line (s : State) (id : CallbackId) (v : Level) : (s.callback id v).line = s.line := rfl
@[simp] theorem State.callback_spiRegCount (s : State) (id : CallbackId) (v : Level) : (s.callback id v).spiRegCount = s.spiRegCount := rfl
@[simp] theorem State.callback_spiReg (s : State) (id : CallbackId) (v : Level) : (s.callback id v).spiReg = s.spiReg := rfl
@[simp] theorem State.callback_spi (s : State) (id : CallbackId) (v : Level) : (s.callback id v).spi = s.spi := rfl
@[simp] theorem State.callback_extiImr (s : State) (id : CallbackId) (v : Level) : (s.callback id v).extiImr = s.extiImr := rfl
@[simp] theorem State.callback_extiPortsel (s : State) (id : CallbackId) (v : Level) : (s.callback id v).extiPortsel = s.extiPortsel := rfl
@[simp] theorem State.callback_spiCfg (s : State) (id : CallbackId) (v : Level) : (s.callback id v).spiCfg = s.spiCfg := rfl
@[simp] theorem State.callback_mem (s : State) (id : CallbackId) (v : Level) : (s.callback id v).mem = s.mem := rfl
@[simp] theorem State.callback_gpioIn (s : State) (id : CallbackId) (v : Level) : (s.callback id v).gpioIn = s.gpioIn := rfl
@[simp] theorem State.callback_gpioOut (s : State) (id : CallbackId) (v : Level) : (s.callback id v).gpioOut = s.gpioOut := rfl
@[simp] theorem State.callback_outTrace (s : State) (id : CallbackId) (v : Level) : (s.callback id v).outTrace = s.outTrace ++ [.cb id v] := rfl
@[simp] theorem State.callback_cascades (s : State) (id : CallbackId) (v : Level) : (s.callback id v).cascades = s.cascades := rfl
@[simp] theorem State.callback_stim (s : State) (id : CallbackId) (v : Level) : (s.callback id v).stim = s.stim := rfl
@[simp] theorem State.callback_draws (s : State) (id : CallbackId) (v : Level) : (s.callback id v).draws = s.draws := rfl
@[simp] theorem State.callback_result (s : State) (id : CallbackId) (v : Level) : (s.callback id v).result = s.result := rfl

/-! ### `State.sendEvent` -/

@[simp] theorem State.sendEvent_dbInit (s : State) (h : SpiHandle) (a : Addr) (n : Len) : (s.sendEvent h a n).dbInit = s.dbInit := rfl
@[simp] theorem State.sendEvent_dbTim (s : State) (h : SpiHandle) (a : Addr) (n : Len) : (s.sendEvent h a n).dbTim = s.dbTim := rfl
@[simp] theorem State.sendEvent_dbPeriod (s : State) (h : SpiHandle) (a : Addr) (n : Len) : (s.sendEvent h a n).dbPeriod = s.dbPeriod := rfl
@[simp] theorem State.sendEvent_timRun (s : State) (h : SpiHandle) (a : Addr) (n : Len) : (s.sendEvent h a n).timRun = s.timRun := rfl
@[simp] theorem State.sendEvent_timCnt (s : State) (h : SpiHandle) (a : Addr) (n : Len) : (s.sendEvent h a n).timCnt = s.timCnt := rfl
@[simp] theorem State.sendEvent_dbCount (s : State) (h : SpiHandle) (a : Addr) (n : Len) : (s.sendEvent h a n).dbCount = s.dbCount := rfl
@[simp] theorem State.sendEvent_dbMask (s : State) (h : SpiHandle) (a : Addr) (n : Len) : (s.sendEvent h a n).dbMask = s.dbMask := rfl
@[simp] theorem State.sendEvent_line (s : State) (h : SpiHandle) (a : Addr) (n : Len) : (s.sendEvent h a n).line = s.line := rfl
@[simp] theorem State.sendEvent_spiRegCount (s : State) (h : SpiHandle) (a : Addr) (n : Len) : (s.sendEvent h a n).spiRegCount = s.spiRegCount := rfl
@[simp] theorem State.sendEvent_spiReg (s : State) (h : SpiHandle) (a : Addr) (n : Len) : (s.sendEvent h a n).spiReg = s.spiReg := rfl
@[simp] theorem State.sendEvent_spi (s : State) (h : SpiHandle) (a : Addr) (n : Len) : (s.sendEvent h a n).spi = s.spi := rfl
@[simp] theorem State.sendEvent_extiImr (s : State) (h : SpiHandle) (a : Addr) (n : Len) : (s.sendEvent h a n).extiImr = s.extiImr := rfl
@[simp] theorem State.sendEvent_extiPortsel (s : State) (h : SpiHandle) (a : Addr) (n : Len) : (s.sendEvent h a n).extiPortsel = s.extiPortsel := rfl
@[simp] theorem State.sendEvent_spiCfg (s : State) (h : SpiHandle) (a : Addr) (n : Len) : (s.sendEvent h a n).spiCfg = s.spiCfg := rfl
@[simp] theorem State.sendEvent_mem (s : State) (h : SpiHandle) (a : Addr) (n : Len) : (s.sendEvent h a n).mem = s.mem := rfl
@[simp] theorem State.sendEvent_gpioIn (s : State) (h : SpiHandle) (a : Addr) (n : Len) : (s.sendEvent h a n).gpioIn = s.gpioIn := rfl
@[simp] theorem State.sendEvent_gpioOut (s : State) (h : SpiHandle) (a : Addr) (n : Len) : (s.sendEvent h a n).gpioOut = s.gpioOut := rfl
@[simp] theorem State.sendEvent_outTrace (s : State) (h : SpiHandle) (a : Addr) (n : Len) : (s.sendEvent h a n).outTrace = s.outTrace ++ [.send h a n] := rfl
@[simp] theorem State.sendEvent_cascades (s : State) (h : SpiHandle) (a : Addr) (n : Len) : (s.sendEvent h a n).cascades = s.cascades := rfl
@[simp] theorem State.sendEvent_stim (s : State) (h : SpiHandle) (a : Addr) (n : Len) : (s.sendEvent h a n).stim = s.stim := rfl
@[simp] theorem State.sendEvent_draws (s : State) (h : SpiHandle) (a : Addr) (n : Len) : (s.sendEvent h a n).draws = s.draws := rfl
@[simp] theorem State.sendEvent_result (s : State) (h : SpiHandle) (a : Addr) (n : Len) : (s.sendEvent h a n).result = s.result := rfl

/-! ### `State.transmit` -/

@[simp] theorem State.transmit_dbInit (s : State) (h : SpiHandle) (b : Byte) : (s.transmit h b).dbInit = s.dbInit := rfl
@[simp] theorem State.transmit_dbTim (s : State) (h : SpiHandle) (b : Byte) : (s.transmit h b).dbTim = s.dbTim := rfl
@[simp] theorem State.transmit_dbPeriod (s : State) (h : SpiHandle) (b : Byte) : (s.transmit h b).dbPeriod = s.dbPeriod := rfl
@[simp] theorem State.transmit_timRun (s : State) (h : SpiHandle) (b : Byte) : (s.transmit h b).timRun = s.timRun := rfl
@[simp] theorem State.transmit_timCnt (s : State) (h : SpiHandle) (b : Byte) : (s.transmit h b).timCnt = s.timCnt := rfl
@[simp] theorem State.transmit_dbCount (s : State) (h : SpiHandle) (b : Byte) : (s.transmit h b).dbCount = s.dbCount := rfl
@[simp] theorem State.transmit_dbMask (s : State) (h : SpiHandle) (b : Byte) : (s.transmit h b).dbMask = s.dbMask := rfl
@[simp] theorem State.transmit_line (s : State) (h : SpiHandle) (b : Byte) : (s.transmit h b).line = s.line := rfl
@[simp] theorem State.transmit_spiRegCount (s : State) (h : SpiHandle) (b : Byte) : (s.transmit h b).spiRegCount = s.spiRegCount := rfl
@[simp] theorem State.transmit_spiReg (s : State) (h : SpiHandle) (b : Byte) : (s.transmit h b).spiReg = s.spiReg := rfl
@[simp] theorem State.transmit_spi (s : State) (h : SpiHandle) (b : Byte) : (s.transmit h b).spi = s.spi := rfl
@[simp] theorem State.transmit_extiImr (s : State) (h : SpiHandle) (b : Byte) : (s.transmit h b).extiImr = s.extiImr := rfl
@[simp] theorem State.transmit_extiPortsel (s : State) (h : SpiHandle) (b : Byte) : (s.transmit h b).extiPortsel = s.extiPortsel := rfl
@[simp] theorem State.transmit_spiCfg (s : State) (h : SpiHandle) (b : Byte) : (s.transmit h b).spiCfg = s.spiCfg := rfl
@[simp] theorem State.transmit_mem (s : State) (h : SpiHandle) (b : Byte) : (s.transmit h b).mem = s.mem := rfl
@[simp] theorem State.transmit_gpioIn (s : State) (h : SpiHandle) (b : Byte) : (s.transmit h b).gpioIn = s.gpioIn := rfl
@[simp] theorem State.transmit_gpioOut (s : State) (h : SpiHandle) (b : Byte) : (s.transmit h b).gpioOut = s.gpioOut := rfl
@[simp] theorem State.transmit_outTrace (s : State) (h : SpiHandle) (b : Byte) : (s.transmit h b).outTrace = s.outTrace ++ [.tx h b] := rfl
@[simp] theorem State.transmit_cascades (s : State) (h : SpiHandle) (b : Byte) : (s.transmit h b).cascades = (State.redrawShared { s with outTrace := s.outTrace ++ [.tx h b], cascades := s.cascades.map (Cascade.onTransmit h b) }).cascades := rfl
@[simp] theorem State.transmit_stim (s : State) (h : SpiHandle) (b : Byte) : (s.transmit h b).stim = s.stim := rfl
@[simp] theorem State.transmit_draws (s : State) (h : SpiHandle) (b : Byte) : (s.transmit h b).draws = s.draws := rfl
@[simp] theorem State.transmit_result (s : State) (h : SpiHandle) (b : Byte) : (s.transmit h b).result = s.result := rfl

/-! ### `State.redrawShared` -/

@[simp] theorem State.redrawShared_dbInit (s : State) : (s.redrawShared).dbInit = s.dbInit := rfl
@[simp] theorem State.redrawShared_dbTim (s : State) : (s.redrawShared).dbTim = s.dbTim := rfl
@[simp] theorem State.redrawShared_dbPeriod (s : State) : (s.redrawShared).dbPeriod = s.dbPeriod := rfl
@[simp] theorem State.redrawShared_timRun (s : State) : (s.redrawShared).timRun = s.timRun := rfl
@[simp] theorem State.redrawShared_timCnt (s : State) : (s.redrawShared).timCnt = s.timCnt := rfl
@[simp] theorem State.redrawShared_dbCount (s : State) : (s.redrawShared).dbCount = s.dbCount := rfl
@[simp] theorem State.redrawShared_dbMask (s : State) : (s.redrawShared).dbMask = s.dbMask := rfl
@[simp] theorem State.redrawShared_line (s : State) : (s.redrawShared).line = s.line := rfl
@[simp] theorem State.redrawShared_spiRegCount (s : State) : (s.redrawShared).spiRegCount = s.spiRegCount := rfl
@[simp] theorem State.redrawShared_spiReg (s : State) : (s.redrawShared).spiReg = s.spiReg := rfl
@[simp] theorem State.redrawShared_spi (s : State) : (s.redrawShared).spi = s.spi := rfl
@[simp] theorem State.redrawShared_extiImr (s : State) : (s.redrawShared).extiImr = s.extiImr := rfl
@[simp] theorem State.redrawShared_extiPortsel (s : State) : (s.redrawShared).extiPortsel = s.extiPortsel := rfl
@[simp] theorem State.redrawShared_spiCfg (s : State) : (s.redrawShared).spiCfg = s.spiCfg := rfl
@[simp] theorem State.redrawShared_mem (s : State) : (s.redrawShared).mem = s.mem := rfl
@[simp] theorem State.redrawShared_gpioIn (s : State) : (s.redrawShared).gpioIn = s.gpioIn := rfl
@[simp] theorem State.redrawShared_gpioOut (s : State) : (s.redrawShared).gpioOut = s.gpioOut := rfl
@[simp] theorem State.redrawShared_outTrace (s : State) : (s.redrawShared).outTrace = s.outTrace := rfl
@[simp] theorem State.redrawShared_cascades (s : State) : (s.redrawShared).cascades = redrawFrom s s.outTrace.length 0 s.cascades := rfl
@[simp] theorem State.redrawShared_stim (s : State) : (s.redrawShared).stim = s.stim := rfl
@[simp] theorem State.redrawShared_draws (s : State) : (s.redrawShared).draws = s.draws := rfl
@[simp] theorem State.redrawShared_result (s : State) : (s.redrawShared).result = s.result := rfl

/-! ### `State.noteInst` -/

@[simp] theorem State.noteInst_dbInit (s : State) (i : Inst) : (s.noteInst i).dbInit = s.dbInit := rfl
@[simp] theorem State.noteInst_dbTim (s : State) (i : Inst) : (s.noteInst i).dbTim = s.dbTim := rfl
@[simp] theorem State.noteInst_dbPeriod (s : State) (i : Inst) : (s.noteInst i).dbPeriod = s.dbPeriod := rfl
@[simp] theorem State.noteInst_timRun (s : State) (i : Inst) : (s.noteInst i).timRun = s.timRun := rfl
@[simp] theorem State.noteInst_timCnt (s : State) (i : Inst) : (s.noteInst i).timCnt = s.timCnt := rfl
@[simp] theorem State.noteInst_dbCount (s : State) (i : Inst) : (s.noteInst i).dbCount = s.dbCount := rfl
@[simp] theorem State.noteInst_dbMask (s : State) (i : Inst) : (s.noteInst i).dbMask = s.dbMask := rfl
@[simp] theorem State.noteInst_line (s : State) (i : Inst) : (s.noteInst i).line = s.line := rfl
@[simp] theorem State.noteInst_spiRegCount (s : State) (i : Inst) : (s.noteInst i).spiRegCount = s.spiRegCount := rfl
@[simp] theorem State.noteInst_spiReg (s : State) (i : Inst) : (s.noteInst i).spiReg = s.spiReg := rfl
@[simp] theorem State.noteInst_spi (s : State) (i : Inst) : (s.noteInst i).spi = s.spi := rfl
@[simp] theorem State.noteInst_extiImr (s : State) (i : Inst) : (s.noteInst i).extiImr = s.extiImr := rfl
@[simp] theorem State.noteInst_extiPortsel (s : State) (i : Inst) : (s.noteInst i).extiPortsel = s.extiPortsel := rfl
@[simp] theorem State.noteInst_spiCfg (s : State) (i : Inst) : (s.noteInst i).spiCfg = s.spiCfg := rfl
@[simp] theorem State.noteInst_mem (s : State) (i : Inst) : (s.noteInst i).mem = s.mem := rfl
@[simp] theorem State.noteInst_gpioIn (s : State) (i : Inst) : (s.noteInst i).gpioIn = s.gpioIn := rfl
@[simp] theorem State.noteInst_gpioOut (s : State) (i : Inst) : (s.noteInst i).gpioOut = s.gpioOut := rfl
@[simp] theorem State.noteInst_outTrace (s : State) (i : Inst) : (s.noteInst i).outTrace = s.outTrace := rfl
@[simp] theorem State.noteInst_cascades (s : State) (i : Inst) : (s.noteInst i).cascades = (State.redrawShared { s with cascades := s.cascades.map (Cascade.meetInst i) }).cascades := rfl
@[simp] theorem State.noteInst_stim (s : State) (i : Inst) : (s.noteInst i).stim = s.stim := rfl
@[simp] theorem State.noteInst_draws (s : State) (i : Inst) : (s.noteInst i).draws = s.draws := rfl
@[simp] theorem State.noteInst_result (s : State) (i : Inst) : (s.noteInst i).result = s.result := rfl

/-! ### `State.appendLine` -/

@[simp] theorem State.appendLine_dbInit (s : State) (e : LineEntry) : (s.appendLine e).dbInit = s.dbInit := rfl
@[simp] theorem State.appendLine_dbTim (s : State) (e : LineEntry) : (s.appendLine e).dbTim = s.dbTim := rfl
@[simp] theorem State.appendLine_dbPeriod (s : State) (e : LineEntry) : (s.appendLine e).dbPeriod = s.dbPeriod := rfl
@[simp] theorem State.appendLine_timRun (s : State) (e : LineEntry) : (s.appendLine e).timRun = s.timRun := rfl
@[simp] theorem State.appendLine_timCnt (s : State) (e : LineEntry) : (s.appendLine e).timCnt = s.timCnt := rfl
@[simp] theorem State.appendLine_dbCount (s : State) (e : LineEntry) : (s.appendLine e).dbCount = s.dbCount + 1#5 := rfl
@[simp] theorem State.appendLine_dbMask (s : State) (e : LineEntry) : (s.appendLine e).dbMask = s.dbMask ||| e.pin := rfl
@[simp] theorem State.appendLine_line (s : State) (e : LineEntry) : (s.appendLine e).line = s.line.setIfInBounds s.dbCount.toNat e := rfl
@[simp] theorem State.appendLine_spiRegCount (s : State) (e : LineEntry) : (s.appendLine e).spiRegCount = s.spiRegCount := rfl
@[simp] theorem State.appendLine_spiReg (s : State) (e : LineEntry) : (s.appendLine e).spiReg = s.spiReg := rfl
@[simp] theorem State.appendLine_spi (s : State) (e : LineEntry) : (s.appendLine e).spi = s.spi := rfl
@[simp] theorem State.appendLine_extiImr (s : State) (e : LineEntry) : (s.appendLine e).extiImr = s.extiImr := rfl
@[simp] theorem State.appendLine_extiPortsel (s : State) (e : LineEntry) : (s.appendLine e).extiPortsel = s.extiPortsel := rfl
@[simp] theorem State.appendLine_spiCfg (s : State) (e : LineEntry) : (s.appendLine e).spiCfg = s.spiCfg := rfl
@[simp] theorem State.appendLine_mem (s : State) (e : LineEntry) : (s.appendLine e).mem = s.mem := rfl
@[simp] theorem State.appendLine_gpioIn (s : State) (e : LineEntry) : (s.appendLine e).gpioIn = s.gpioIn := rfl
@[simp] theorem State.appendLine_gpioOut (s : State) (e : LineEntry) : (s.appendLine e).gpioOut = s.gpioOut := rfl
@[simp] theorem State.appendLine_outTrace (s : State) (e : LineEntry) : (s.appendLine e).outTrace = s.outTrace := rfl
@[simp] theorem State.appendLine_cascades (s : State) (e : LineEntry) : (s.appendLine e).cascades = s.cascades := rfl
@[simp] theorem State.appendLine_stim (s : State) (e : LineEntry) : (s.appendLine e).stim = s.stim := rfl
@[simp] theorem State.appendLine_draws (s : State) (e : LineEntry) : (s.appendLine e).draws = s.draws := rfl
@[simp] theorem State.appendLine_result (s : State) (e : LineEntry) : (s.appendLine e).result = s.result := rfl

/-! ### `State.appendSpiReg` -/

@[simp] theorem State.appendSpiReg_dbInit (s : State) (e : SpiRegEntry) : (s.appendSpiReg e).dbInit = s.dbInit := rfl
@[simp] theorem State.appendSpiReg_dbTim (s : State) (e : SpiRegEntry) : (s.appendSpiReg e).dbTim = s.dbTim := rfl
@[simp] theorem State.appendSpiReg_dbPeriod (s : State) (e : SpiRegEntry) : (s.appendSpiReg e).dbPeriod = s.dbPeriod := rfl
@[simp] theorem State.appendSpiReg_timRun (s : State) (e : SpiRegEntry) : (s.appendSpiReg e).timRun = s.timRun := rfl
@[simp] theorem State.appendSpiReg_timCnt (s : State) (e : SpiRegEntry) : (s.appendSpiReg e).timCnt = s.timCnt := rfl
@[simp] theorem State.appendSpiReg_dbCount (s : State) (e : SpiRegEntry) : (s.appendSpiReg e).dbCount = s.dbCount := rfl
@[simp] theorem State.appendSpiReg_dbMask (s : State) (e : SpiRegEntry) : (s.appendSpiReg e).dbMask = s.dbMask := rfl
@[simp] theorem State.appendSpiReg_line (s : State) (e : SpiRegEntry) : (s.appendSpiReg e).line = s.line := rfl
@[simp] theorem State.appendSpiReg_spiRegCount (s : State) (e : SpiRegEntry) : (s.appendSpiReg e).spiRegCount = s.spiRegCount + 1#2 := rfl
@[simp] theorem State.appendSpiReg_spiReg (s : State) (e : SpiRegEntry) : (s.appendSpiReg e).spiReg = s.spiReg.setIfInBounds s.spiRegCount.toNat e := rfl
@[simp] theorem State.appendSpiReg_spi (s : State) (e : SpiRegEntry) : (s.appendSpiReg e).spi = s.spi := rfl
@[simp] theorem State.appendSpiReg_extiImr (s : State) (e : SpiRegEntry) : (s.appendSpiReg e).extiImr = s.extiImr := rfl
@[simp] theorem State.appendSpiReg_extiPortsel (s : State) (e : SpiRegEntry) : (s.appendSpiReg e).extiPortsel = s.extiPortsel := rfl
@[simp] theorem State.appendSpiReg_spiCfg (s : State) (e : SpiRegEntry) : (s.appendSpiReg e).spiCfg = s.spiCfg := rfl
@[simp] theorem State.appendSpiReg_mem (s : State) (e : SpiRegEntry) : (s.appendSpiReg e).mem = s.mem := rfl
@[simp] theorem State.appendSpiReg_gpioIn (s : State) (e : SpiRegEntry) : (s.appendSpiReg e).gpioIn = s.gpioIn := rfl
@[simp] theorem State.appendSpiReg_gpioOut (s : State) (e : SpiRegEntry) : (s.appendSpiReg e).gpioOut = s.gpioOut := rfl
@[simp] theorem State.appendSpiReg_outTrace (s : State) (e : SpiRegEntry) : (s.appendSpiReg e).outTrace = s.outTrace := rfl
@[simp] theorem State.appendSpiReg_cascades (s : State) (e : SpiRegEntry) : (s.appendSpiReg e).cascades = s.cascades := rfl
@[simp] theorem State.appendSpiReg_stim (s : State) (e : SpiRegEntry) : (s.appendSpiReg e).stim = s.stim := rfl
@[simp] theorem State.appendSpiReg_draws (s : State) (e : SpiRegEntry) : (s.appendSpiReg e).draws = s.draws := rfl
@[simp] theorem State.appendSpiReg_result (s : State) (e : SpiRegEntry) : (s.appendSpiReg e).result = s.result := rfl

/-! ### `State.deliverNext` -/

@[simp] theorem State.deliverNext_dbInit (s : State) (w : Word64) : (s.deliverNext w).dbInit = s.dbInit := rfl
@[simp] theorem State.deliverNext_dbTim (s : State) (w : Word64) : (s.deliverNext w).dbTim = s.dbTim := rfl
@[simp] theorem State.deliverNext_dbPeriod (s : State) (w : Word64) : (s.deliverNext w).dbPeriod = s.dbPeriod := rfl
@[simp] theorem State.deliverNext_timRun (s : State) (w : Word64) : (s.deliverNext w).timRun = s.timRun := rfl
@[simp] theorem State.deliverNext_timCnt (s : State) (w : Word64) : (s.deliverNext w).timCnt = s.timCnt := rfl
@[simp] theorem State.deliverNext_dbCount (s : State) (w : Word64) : (s.deliverNext w).dbCount = s.dbCount := rfl
@[simp] theorem State.deliverNext_dbMask (s : State) (w : Word64) : (s.deliverNext w).dbMask = s.dbMask := rfl
@[simp] theorem State.deliverNext_line (s : State) (w : Word64) : (s.deliverNext w).line = s.line := rfl
@[simp] theorem State.deliverNext_spiRegCount (s : State) (w : Word64) : (s.deliverNext w).spiRegCount = s.spiRegCount := rfl
@[simp] theorem State.deliverNext_spiReg (s : State) (w : Word64) : (s.deliverNext w).spiReg = s.spiReg := rfl
@[simp] theorem State.deliverNext_spi (s : State) (w : Word64) : (s.deliverNext w).spi = s.spi := rfl
@[simp] theorem State.deliverNext_extiImr (s : State) (w : Word64) : (s.deliverNext w).extiImr = s.extiImr := rfl
@[simp] theorem State.deliverNext_extiPortsel (s : State) (w : Word64) : (s.deliverNext w).extiPortsel = s.extiPortsel := rfl
@[simp] theorem State.deliverNext_spiCfg (s : State) (w : Word64) : (s.deliverNext w).spiCfg = s.spiCfg := rfl
@[simp] theorem State.deliverNext_mem (s : State) (w : Word64) : (s.deliverNext w).mem = s.mem := rfl
@[simp] theorem State.deliverNext_gpioIn (s : State) (w : Word64) : (s.deliverNext w).gpioIn = s.gpioIn := rfl
@[simp] theorem State.deliverNext_gpioOut (s : State) (w : Word64) : (s.deliverNext w).gpioOut = s.gpioOut := rfl
@[simp] theorem State.deliverNext_outTrace (s : State) (w : Word64) : (s.deliverNext w).outTrace = s.outTrace := rfl
@[simp] theorem State.deliverNext_cascades (s : State) (w : Word64) : (s.deliverNext w).cascades = s.cascades := rfl
@[simp] theorem State.deliverNext_stim (s : State) (w : Word64) : (s.deliverNext w).stim = (⟨w, s.draws⟩ : Input) :: s.stim := rfl
@[simp] theorem State.deliverNext_draws (s : State) (w : Word64) : (s.deliverNext w).draws = s.draws := rfl
@[simp] theorem State.deliverNext_result (s : State) (w : Word64) : (s.deliverNext w).result = s.result := rfl

/-! ### `State.load` -/

@[simp] theorem State.load_dbInit (s : State) (is : List Input) : (s.load is).dbInit = s.dbInit := rfl
@[simp] theorem State.load_dbTim (s : State) (is : List Input) : (s.load is).dbTim = s.dbTim := rfl
@[simp] theorem State.load_dbPeriod (s : State) (is : List Input) : (s.load is).dbPeriod = s.dbPeriod := rfl
@[simp] theorem State.load_timRun (s : State) (is : List Input) : (s.load is).timRun = s.timRun := rfl
@[simp] theorem State.load_timCnt (s : State) (is : List Input) : (s.load is).timCnt = s.timCnt := rfl
@[simp] theorem State.load_dbCount (s : State) (is : List Input) : (s.load is).dbCount = s.dbCount := rfl
@[simp] theorem State.load_dbMask (s : State) (is : List Input) : (s.load is).dbMask = s.dbMask := rfl
@[simp] theorem State.load_line (s : State) (is : List Input) : (s.load is).line = s.line := rfl
@[simp] theorem State.load_spiRegCount (s : State) (is : List Input) : (s.load is).spiRegCount = s.spiRegCount := rfl
@[simp] theorem State.load_spiReg (s : State) (is : List Input) : (s.load is).spiReg = s.spiReg := rfl
@[simp] theorem State.load_spi (s : State) (is : List Input) : (s.load is).spi = s.spi := rfl
@[simp] theorem State.load_extiImr (s : State) (is : List Input) : (s.load is).extiImr = s.extiImr := rfl
@[simp] theorem State.load_extiPortsel (s : State) (is : List Input) : (s.load is).extiPortsel = s.extiPortsel := rfl
@[simp] theorem State.load_spiCfg (s : State) (is : List Input) : (s.load is).spiCfg = s.spiCfg := rfl
@[simp] theorem State.load_mem (s : State) (is : List Input) : (s.load is).mem = s.mem := rfl
@[simp] theorem State.load_gpioIn (s : State) (is : List Input) : (s.load is).gpioIn = s.gpioIn := rfl
@[simp] theorem State.load_gpioOut (s : State) (is : List Input) : (s.load is).gpioOut = s.gpioOut := rfl
@[simp] theorem State.load_outTrace (s : State) (is : List Input) : (s.load is).outTrace = s.outTrace := rfl
@[simp] theorem State.load_cascades (s : State) (is : List Input) : (s.load is).cascades = s.cascades := rfl
@[simp] theorem State.load_stim (s : State) (is : List Input) : (s.load is).stim = s.stim ++ is := rfl
@[simp] theorem State.load_draws (s : State) (is : List Input) : (s.load is).draws = s.draws := rfl
@[simp] theorem State.load_result (s : State) (is : List Input) : (s.load is).result = s.result := rfl

/-! ### `State.setPeriph`: only the transfer state -/

@[simp] theorem State.setPeriph_dbInit (s : State) (h : SpiHandle) (p : SpiPeriph) : (s.setPeriph h p).dbInit = s.dbInit := by
  unfold State.setPeriph; split <;> rfl
@[simp] theorem State.setPeriph_dbTim (s : State) (h : SpiHandle) (p : SpiPeriph) : (s.setPeriph h p).dbTim = s.dbTim := by
  unfold State.setPeriph; split <;> rfl
@[simp] theorem State.setPeriph_dbPeriod (s : State) (h : SpiHandle) (p : SpiPeriph) : (s.setPeriph h p).dbPeriod = s.dbPeriod := by
  unfold State.setPeriph; split <;> rfl
@[simp] theorem State.setPeriph_timRun (s : State) (h : SpiHandle) (p : SpiPeriph) : (s.setPeriph h p).timRun = s.timRun := by
  unfold State.setPeriph; split <;> rfl
@[simp] theorem State.setPeriph_timCnt (s : State) (h : SpiHandle) (p : SpiPeriph) : (s.setPeriph h p).timCnt = s.timCnt := by
  unfold State.setPeriph; split <;> rfl
@[simp] theorem State.setPeriph_dbCount (s : State) (h : SpiHandle) (p : SpiPeriph) : (s.setPeriph h p).dbCount = s.dbCount := by
  unfold State.setPeriph; split <;> rfl
@[simp] theorem State.setPeriph_dbMask (s : State) (h : SpiHandle) (p : SpiPeriph) : (s.setPeriph h p).dbMask = s.dbMask := by
  unfold State.setPeriph; split <;> rfl
@[simp] theorem State.setPeriph_line (s : State) (h : SpiHandle) (p : SpiPeriph) : (s.setPeriph h p).line = s.line := by
  unfold State.setPeriph; split <;> rfl
@[simp] theorem State.setPeriph_spiRegCount (s : State) (h : SpiHandle) (p : SpiPeriph) : (s.setPeriph h p).spiRegCount = s.spiRegCount := by
  unfold State.setPeriph; split <;> rfl
@[simp] theorem State.setPeriph_spiReg (s : State) (h : SpiHandle) (p : SpiPeriph) : (s.setPeriph h p).spiReg = s.spiReg := by
  unfold State.setPeriph; split <;> rfl
@[simp] theorem State.setPeriph_extiImr (s : State) (h : SpiHandle) (p : SpiPeriph) : (s.setPeriph h p).extiImr = s.extiImr := by
  unfold State.setPeriph; split <;> rfl
@[simp] theorem State.setPeriph_extiPortsel (s : State) (h : SpiHandle) (p : SpiPeriph) : (s.setPeriph h p).extiPortsel = s.extiPortsel := by
  unfold State.setPeriph; split <;> rfl
@[simp] theorem State.setPeriph_spiCfg (s : State) (h : SpiHandle) (p : SpiPeriph) : (s.setPeriph h p).spiCfg = s.spiCfg := by
  unfold State.setPeriph; split <;> rfl
@[simp] theorem State.setPeriph_mem (s : State) (h : SpiHandle) (p : SpiPeriph) : (s.setPeriph h p).mem = s.mem := by
  unfold State.setPeriph; split <;> rfl
@[simp] theorem State.setPeriph_gpioIn (s : State) (h : SpiHandle) (p : SpiPeriph) : (s.setPeriph h p).gpioIn = s.gpioIn := by
  unfold State.setPeriph; split <;> rfl
@[simp] theorem State.setPeriph_gpioOut (s : State) (h : SpiHandle) (p : SpiPeriph) : (s.setPeriph h p).gpioOut = s.gpioOut := by
  unfold State.setPeriph; split <;> rfl
@[simp] theorem State.setPeriph_outTrace (s : State) (h : SpiHandle) (p : SpiPeriph) : (s.setPeriph h p).outTrace = s.outTrace := by
  unfold State.setPeriph; split <;> rfl
@[simp] theorem State.setPeriph_cascades (s : State) (h : SpiHandle) (p : SpiPeriph) : (s.setPeriph h p).cascades = s.cascades := by
  unfold State.setPeriph; split <;> rfl
@[simp] theorem State.setPeriph_stim (s : State) (h : SpiHandle) (p : SpiPeriph) : (s.setPeriph h p).stim = s.stim := by
  unfold State.setPeriph; split <;> rfl
@[simp] theorem State.setPeriph_draws (s : State) (h : SpiHandle) (p : SpiPeriph) : (s.setPeriph h p).draws = s.draws := by
  unfold State.setPeriph; split <;> rfl
@[simp] theorem State.setPeriph_result (s : State) (h : SpiHandle) (p : SpiPeriph) : (s.setPeriph h p).result = s.result := by
  unfold State.setPeriph; split <;> rfl

/-! ### `State.setLastState`: only the line table -/

@[simp] theorem State.setLastState_dbInit (s : State) (i : Nat) (v : Level) : (s.setLastState i v).dbInit = s.dbInit := by
  unfold State.setLastState; split <;> rfl
@[simp] theorem State.setLastState_dbTim (s : State) (i : Nat) (v : Level) : (s.setLastState i v).dbTim = s.dbTim := by
  unfold State.setLastState; split <;> rfl
@[simp] theorem State.setLastState_dbPeriod (s : State) (i : Nat) (v : Level) : (s.setLastState i v).dbPeriod = s.dbPeriod := by
  unfold State.setLastState; split <;> rfl
@[simp] theorem State.setLastState_timRun (s : State) (i : Nat) (v : Level) : (s.setLastState i v).timRun = s.timRun := by
  unfold State.setLastState; split <;> rfl
@[simp] theorem State.setLastState_timCnt (s : State) (i : Nat) (v : Level) : (s.setLastState i v).timCnt = s.timCnt := by
  unfold State.setLastState; split <;> rfl
@[simp] theorem State.setLastState_dbCount (s : State) (i : Nat) (v : Level) : (s.setLastState i v).dbCount = s.dbCount := by
  unfold State.setLastState; split <;> rfl
@[simp] theorem State.setLastState_dbMask (s : State) (i : Nat) (v : Level) : (s.setLastState i v).dbMask = s.dbMask := by
  unfold State.setLastState; split <;> rfl
@[simp] theorem State.setLastState_spiRegCount (s : State) (i : Nat) (v : Level) : (s.setLastState i v).spiRegCount = s.spiRegCount := by
  unfold State.setLastState; split <;> rfl
@[simp] theorem State.setLastState_spiReg (s : State) (i : Nat) (v : Level) : (s.setLastState i v).spiReg = s.spiReg := by
  unfold State.setLastState; split <;> rfl
@[simp] theorem State.setLastState_spi (s : State) (i : Nat) (v : Level) : (s.setLastState i v).spi = s.spi := by
  unfold State.setLastState; split <;> rfl
@[simp] theorem State.setLastState_extiImr (s : State) (i : Nat) (v : Level) : (s.setLastState i v).extiImr = s.extiImr := by
  unfold State.setLastState; split <;> rfl
@[simp] theorem State.setLastState_extiPortsel (s : State) (i : Nat) (v : Level) : (s.setLastState i v).extiPortsel = s.extiPortsel := by
  unfold State.setLastState; split <;> rfl
@[simp] theorem State.setLastState_spiCfg (s : State) (i : Nat) (v : Level) : (s.setLastState i v).spiCfg = s.spiCfg := by
  unfold State.setLastState; split <;> rfl
@[simp] theorem State.setLastState_mem (s : State) (i : Nat) (v : Level) : (s.setLastState i v).mem = s.mem := by
  unfold State.setLastState; split <;> rfl
@[simp] theorem State.setLastState_gpioIn (s : State) (i : Nat) (v : Level) : (s.setLastState i v).gpioIn = s.gpioIn := by
  unfold State.setLastState; split <;> rfl
@[simp] theorem State.setLastState_gpioOut (s : State) (i : Nat) (v : Level) : (s.setLastState i v).gpioOut = s.gpioOut := by
  unfold State.setLastState; split <;> rfl
@[simp] theorem State.setLastState_outTrace (s : State) (i : Nat) (v : Level) : (s.setLastState i v).outTrace = s.outTrace := by
  unfold State.setLastState; split <;> rfl
@[simp] theorem State.setLastState_cascades (s : State) (i : Nat) (v : Level) : (s.setLastState i v).cascades = s.cascades := by
  unfold State.setLastState; split <;> rfl
@[simp] theorem State.setLastState_stim (s : State) (i : Nat) (v : Level) : (s.setLastState i v).stim = s.stim := by
  unfold State.setLastState; split <;> rfl
@[simp] theorem State.setLastState_draws (s : State) (i : Nat) (v : Level) : (s.setLastState i v).draws = s.draws := by
  unfold State.setLastState; split <;> rfl
@[simp] theorem State.setLastState_result (s : State) (i : Nat) (v : Level) : (s.setLastState i v).result = s.result := by
  unfold State.setLastState; split <;> rfl

/-! ### `State.scanLine`, `State.scanLines`, `State.performSettle`: the line table and the trace -/

@[simp] theorem State.scanLine_dbInit (s : State) (i : Nat) : (s.scanLine i).dbInit = s.dbInit := by
  unfold State.scanLine; split <;> (try split) <;> simp
@[simp] theorem State.scanLine_dbTim (s : State) (i : Nat) : (s.scanLine i).dbTim = s.dbTim := by
  unfold State.scanLine; split <;> (try split) <;> simp
@[simp] theorem State.scanLine_dbPeriod (s : State) (i : Nat) : (s.scanLine i).dbPeriod = s.dbPeriod := by
  unfold State.scanLine; split <;> (try split) <;> simp
@[simp] theorem State.scanLine_timRun (s : State) (i : Nat) : (s.scanLine i).timRun = s.timRun := by
  unfold State.scanLine; split <;> (try split) <;> simp
@[simp] theorem State.scanLine_timCnt (s : State) (i : Nat) : (s.scanLine i).timCnt = s.timCnt := by
  unfold State.scanLine; split <;> (try split) <;> simp
@[simp] theorem State.scanLine_dbCount (s : State) (i : Nat) : (s.scanLine i).dbCount = s.dbCount := by
  unfold State.scanLine; split <;> (try split) <;> simp
@[simp] theorem State.scanLine_dbMask (s : State) (i : Nat) : (s.scanLine i).dbMask = s.dbMask := by
  unfold State.scanLine; split <;> (try split) <;> simp
@[simp] theorem State.scanLine_spiRegCount (s : State) (i : Nat) : (s.scanLine i).spiRegCount = s.spiRegCount := by
  unfold State.scanLine; split <;> (try split) <;> simp
@[simp] theorem State.scanLine_spiReg (s : State) (i : Nat) : (s.scanLine i).spiReg = s.spiReg := by
  unfold State.scanLine; split <;> (try split) <;> simp
@[simp] theorem State.scanLine_spi (s : State) (i : Nat) : (s.scanLine i).spi = s.spi := by
  unfold State.scanLine; split <;> (try split) <;> simp
@[simp] theorem State.scanLine_extiImr (s : State) (i : Nat) : (s.scanLine i).extiImr = s.extiImr := by
  unfold State.scanLine; split <;> (try split) <;> simp
@[simp] theorem State.scanLine_extiPortsel (s : State) (i : Nat) : (s.scanLine i).extiPortsel = s.extiPortsel := by
  unfold State.scanLine; split <;> (try split) <;> simp
@[simp] theorem State.scanLine_spiCfg (s : State) (i : Nat) : (s.scanLine i).spiCfg = s.spiCfg := by
  unfold State.scanLine; split <;> (try split) <;> simp
@[simp] theorem State.scanLine_mem (s : State) (i : Nat) : (s.scanLine i).mem = s.mem := by
  unfold State.scanLine; split <;> (try split) <;> simp
@[simp] theorem State.scanLine_gpioIn (s : State) (i : Nat) : (s.scanLine i).gpioIn = s.gpioIn := by
  unfold State.scanLine; split <;> (try split) <;> simp
@[simp] theorem State.scanLine_gpioOut (s : State) (i : Nat) : (s.scanLine i).gpioOut = s.gpioOut := by
  unfold State.scanLine; split <;> (try split) <;> simp
@[simp] theorem State.scanLine_cascades (s : State) (i : Nat) : (s.scanLine i).cascades = s.cascades := by
  unfold State.scanLine; split <;> (try split) <;> simp
@[simp] theorem State.scanLine_stim (s : State) (i : Nat) : (s.scanLine i).stim = s.stim := by
  unfold State.scanLine; split <;> (try split) <;> simp
@[simp] theorem State.scanLine_draws (s : State) (i : Nat) : (s.scanLine i).draws = s.draws := by
  unfold State.scanLine; split <;> (try split) <;> simp
@[simp] theorem State.scanLine_result (s : State) (i : Nat) : (s.scanLine i).result = s.result := by
  unfold State.scanLine; split <;> (try split) <;> simp
@[simp] theorem State.scanLines_dbInit (s : State) (n : Nat) : (s.scanLines n).dbInit = s.dbInit := by
  induction n with
  | zero => rfl
  | succ n ih => simp [State.scanLines, ih]
@[simp] theorem State.scanLines_dbTim (s : State) (n : Nat) : (s.scanLines n).dbTim = s.dbTim := by
  induction n with
  | zero => rfl
  | succ n ih => simp [State.scanLines, ih]
@[simp] theorem State.scanLines_dbPeriod (s : State) (n : Nat) : (s.scanLines n).dbPeriod = s.dbPeriod := by
  induction n with
  | zero => rfl
  | succ n ih => simp [State.scanLines, ih]
@[simp] theorem State.scanLines_timRun (s : State) (n : Nat) : (s.scanLines n).timRun = s.timRun := by
  induction n with
  | zero => rfl
  | succ n ih => simp [State.scanLines, ih]
@[simp] theorem State.scanLines_timCnt (s : State) (n : Nat) : (s.scanLines n).timCnt = s.timCnt := by
  induction n with
  | zero => rfl
  | succ n ih => simp [State.scanLines, ih]
@[simp] theorem State.scanLines_dbCount (s : State) (n : Nat) : (s.scanLines n).dbCount = s.dbCount := by
  induction n with
  | zero => rfl
  | succ n ih => simp [State.scanLines, ih]
@[simp] theorem State.scanLines_dbMask (s : State) (n : Nat) : (s.scanLines n).dbMask = s.dbMask := by
  induction n with
  | zero => rfl
  | succ n ih => simp [State.scanLines, ih]
@[simp] theorem State.scanLines_spiRegCount (s : State) (n : Nat) : (s.scanLines n).spiRegCount = s.spiRegCount := by
  induction n with
  | zero => rfl
  | succ n ih => simp [State.scanLines, ih]
@[simp] theorem State.scanLines_spiReg (s : State) (n : Nat) : (s.scanLines n).spiReg = s.spiReg := by
  induction n with
  | zero => rfl
  | succ n ih => simp [State.scanLines, ih]
@[simp] theorem State.scanLines_spi (s : State) (n : Nat) : (s.scanLines n).spi = s.spi := by
  induction n with
  | zero => rfl
  | succ n ih => simp [State.scanLines, ih]
@[simp] theorem State.scanLines_extiImr (s : State) (n : Nat) : (s.scanLines n).extiImr = s.extiImr := by
  induction n with
  | zero => rfl
  | succ n ih => simp [State.scanLines, ih]
@[simp] theorem State.scanLines_extiPortsel (s : State) (n : Nat) : (s.scanLines n).extiPortsel = s.extiPortsel := by
  induction n with
  | zero => rfl
  | succ n ih => simp [State.scanLines, ih]
@[simp] theorem State.scanLines_spiCfg (s : State) (n : Nat) : (s.scanLines n).spiCfg = s.spiCfg := by
  induction n with
  | zero => rfl
  | succ n ih => simp [State.scanLines, ih]
@[simp] theorem State.scanLines_mem (s : State) (n : Nat) : (s.scanLines n).mem = s.mem := by
  induction n with
  | zero => rfl
  | succ n ih => simp [State.scanLines, ih]
@[simp] theorem State.scanLines_gpioIn (s : State) (n : Nat) : (s.scanLines n).gpioIn = s.gpioIn := by
  induction n with
  | zero => rfl
  | succ n ih => simp [State.scanLines, ih]
@[simp] theorem State.scanLines_gpioOut (s : State) (n : Nat) : (s.scanLines n).gpioOut = s.gpioOut := by
  induction n with
  | zero => rfl
  | succ n ih => simp [State.scanLines, ih]
@[simp] theorem State.scanLines_cascades (s : State) (n : Nat) : (s.scanLines n).cascades = s.cascades := by
  induction n with
  | zero => rfl
  | succ n ih => simp [State.scanLines, ih]
@[simp] theorem State.scanLines_stim (s : State) (n : Nat) : (s.scanLines n).stim = s.stim := by
  induction n with
  | zero => rfl
  | succ n ih => simp [State.scanLines, ih]
@[simp] theorem State.scanLines_draws (s : State) (n : Nat) : (s.scanLines n).draws = s.draws := by
  induction n with
  | zero => rfl
  | succ n ih => simp [State.scanLines, ih]
@[simp] theorem State.scanLines_result (s : State) (n : Nat) : (s.scanLines n).result = s.result := by
  induction n with
  | zero => rfl
  | succ n ih => simp [State.scanLines, ih]
@[simp] theorem State.performSettle_dbInit (s : State) : s.performSettle.dbInit = s.dbInit := by
  simp [State.performSettle]
@[simp] theorem State.performSettle_dbTim (s : State) : s.performSettle.dbTim = s.dbTim := by
  simp [State.performSettle]
@[simp] theorem State.performSettle_dbPeriod (s : State) : s.performSettle.dbPeriod = s.dbPeriod := by
  simp [State.performSettle]
@[simp] theorem State.performSettle_timRun (s : State) : s.performSettle.timRun = false := by
  simp [State.performSettle]
@[simp] theorem State.performSettle_timCnt (s : State) : s.performSettle.timCnt = s.timCnt := by
  simp [State.performSettle]
@[simp] theorem State.performSettle_dbCount (s : State) : s.performSettle.dbCount = s.dbCount := by
  simp [State.performSettle]
@[simp] theorem State.performSettle_dbMask (s : State) : s.performSettle.dbMask = s.dbMask := by
  simp [State.performSettle]
@[simp] theorem State.performSettle_spiRegCount (s : State) : s.performSettle.spiRegCount = s.spiRegCount := by
  simp [State.performSettle]
@[simp] theorem State.performSettle_spiReg (s : State) : s.performSettle.spiReg = s.spiReg := by
  simp [State.performSettle]
@[simp] theorem State.performSettle_spi (s : State) : s.performSettle.spi = s.spi := by
  simp [State.performSettle]
@[simp] theorem State.performSettle_extiImr (s : State) : s.performSettle.extiImr = s.extiImr := by
  simp [State.performSettle]
@[simp] theorem State.performSettle_extiPortsel (s : State) : s.performSettle.extiPortsel = s.extiPortsel := by
  simp [State.performSettle]
@[simp] theorem State.performSettle_spiCfg (s : State) : s.performSettle.spiCfg = s.spiCfg := by
  simp [State.performSettle]
@[simp] theorem State.performSettle_mem (s : State) : s.performSettle.mem = s.mem := by
  simp [State.performSettle]
@[simp] theorem State.performSettle_gpioIn (s : State) : s.performSettle.gpioIn = s.gpioIn := by
  simp [State.performSettle]
@[simp] theorem State.performSettle_gpioOut (s : State) : s.performSettle.gpioOut = s.gpioOut := by
  simp [State.performSettle]
@[simp] theorem State.performSettle_cascades (s : State) : s.performSettle.cascades = s.cascades := by
  simp [State.performSettle]
@[simp] theorem State.performSettle_stim (s : State) : s.performSettle.stim = s.stim := by
  simp [State.performSettle]
@[simp] theorem State.performSettle_draws (s : State) : s.performSettle.draws = s.draws := by
  simp [State.performSettle]
@[simp] theorem State.performSettle_result (s : State) : s.performSettle.result = s.result := by
  simp [State.performSettle]

/-! ### `State.clockBit`, `State.clockByte`, `State.clockBytes`, `State.performComplete`: the lines, the trace and the observer -/

@[simp] theorem State.clockBit_dbInit (s : State) (srclk ser : LineId) (b : Level) : (s.clockBit srclk ser b).dbInit = s.dbInit := rfl
@[simp] theorem State.clockBit_dbTim (s : State) (srclk ser : LineId) (b : Level) : (s.clockBit srclk ser b).dbTim = s.dbTim := rfl
@[simp] theorem State.clockBit_dbPeriod (s : State) (srclk ser : LineId) (b : Level) : (s.clockBit srclk ser b).dbPeriod = s.dbPeriod := rfl
@[simp] theorem State.clockBit_timRun (s : State) (srclk ser : LineId) (b : Level) : (s.clockBit srclk ser b).timRun = s.timRun := rfl
@[simp] theorem State.clockBit_timCnt (s : State) (srclk ser : LineId) (b : Level) : (s.clockBit srclk ser b).timCnt = s.timCnt := rfl
@[simp] theorem State.clockBit_dbCount (s : State) (srclk ser : LineId) (b : Level) : (s.clockBit srclk ser b).dbCount = s.dbCount := rfl
@[simp] theorem State.clockBit_dbMask (s : State) (srclk ser : LineId) (b : Level) : (s.clockBit srclk ser b).dbMask = s.dbMask := rfl
@[simp] theorem State.clockBit_line (s : State) (srclk ser : LineId) (b : Level) : (s.clockBit srclk ser b).line = s.line := rfl
@[simp] theorem State.clockBit_spiRegCount (s : State) (srclk ser : LineId) (b : Level) : (s.clockBit srclk ser b).spiRegCount = s.spiRegCount := rfl
@[simp] theorem State.clockBit_spiReg (s : State) (srclk ser : LineId) (b : Level) : (s.clockBit srclk ser b).spiReg = s.spiReg := rfl
@[simp] theorem State.clockBit_spi (s : State) (srclk ser : LineId) (b : Level) : (s.clockBit srclk ser b).spi = s.spi := rfl
@[simp] theorem State.clockBit_extiImr (s : State) (srclk ser : LineId) (b : Level) : (s.clockBit srclk ser b).extiImr = s.extiImr := rfl
@[simp] theorem State.clockBit_extiPortsel (s : State) (srclk ser : LineId) (b : Level) : (s.clockBit srclk ser b).extiPortsel = s.extiPortsel := rfl
@[simp] theorem State.clockBit_spiCfg (s : State) (srclk ser : LineId) (b : Level) : (s.clockBit srclk ser b).spiCfg = s.spiCfg := rfl
@[simp] theorem State.clockBit_mem (s : State) (srclk ser : LineId) (b : Level) : (s.clockBit srclk ser b).mem = s.mem := rfl
@[simp] theorem State.clockBit_gpioIn (s : State) (srclk ser : LineId) (b : Level) : (s.clockBit srclk ser b).gpioIn = s.gpioIn := rfl
@[simp] theorem State.clockBit_stim (s : State) (srclk ser : LineId) (b : Level) : (s.clockBit srclk ser b).stim = s.stim := rfl
@[simp] theorem State.clockBit_draws (s : State) (srclk ser : LineId) (b : Level) : (s.clockBit srclk ser b).draws = s.draws := rfl
@[simp] theorem State.clockBit_result (s : State) (srclk ser : LineId) (b : Level) : (s.clockBit srclk ser b).result = s.result := rfl
@[simp] theorem State.clockByte_dbInit (s : State) (srclk ser : LineId) (b : Byte) : (s.clockByte srclk ser b).dbInit = s.dbInit := by
  simp [State.clockByte, bitsOut]
@[simp] theorem State.clockByte_dbTim (s : State) (srclk ser : LineId) (b : Byte) : (s.clockByte srclk ser b).dbTim = s.dbTim := by
  simp [State.clockByte, bitsOut]
@[simp] theorem State.clockByte_dbPeriod (s : State) (srclk ser : LineId) (b : Byte) : (s.clockByte srclk ser b).dbPeriod = s.dbPeriod := by
  simp [State.clockByte, bitsOut]
@[simp] theorem State.clockByte_timRun (s : State) (srclk ser : LineId) (b : Byte) : (s.clockByte srclk ser b).timRun = s.timRun := by
  simp [State.clockByte, bitsOut]
@[simp] theorem State.clockByte_timCnt (s : State) (srclk ser : LineId) (b : Byte) : (s.clockByte srclk ser b).timCnt = s.timCnt := by
  simp [State.clockByte, bitsOut]
@[simp] theorem State.clockByte_dbCount (s : State) (srclk ser : LineId) (b : Byte) : (s.clockByte srclk ser b).dbCount = s.dbCount := by
  simp [State.clockByte, bitsOut]
@[simp] theorem State.clockByte_dbMask (s : State) (srclk ser : LineId) (b : Byte) : (s.clockByte srclk ser b).dbMask = s.dbMask := by
  simp [State.clockByte, bitsOut]
@[simp] theorem State.clockByte_line (s : State) (srclk ser : LineId) (b : Byte) : (s.clockByte srclk ser b).line = s.line := by
  simp [State.clockByte, bitsOut]
@[simp] theorem State.clockByte_spiRegCount (s : State) (srclk ser : LineId) (b : Byte) : (s.clockByte srclk ser b).spiRegCount = s.spiRegCount := by
  simp [State.clockByte, bitsOut]
@[simp] theorem State.clockByte_spiReg (s : State) (srclk ser : LineId) (b : Byte) : (s.clockByte srclk ser b).spiReg = s.spiReg := by
  simp [State.clockByte, bitsOut]
@[simp] theorem State.clockByte_spi (s : State) (srclk ser : LineId) (b : Byte) : (s.clockByte srclk ser b).spi = s.spi := by
  simp [State.clockByte, bitsOut]
@[simp] theorem State.clockByte_extiImr (s : State) (srclk ser : LineId) (b : Byte) : (s.clockByte srclk ser b).extiImr = s.extiImr := by
  simp [State.clockByte, bitsOut]
@[simp] theorem State.clockByte_extiPortsel (s : State) (srclk ser : LineId) (b : Byte) : (s.clockByte srclk ser b).extiPortsel = s.extiPortsel := by
  simp [State.clockByte, bitsOut]
@[simp] theorem State.clockByte_spiCfg (s : State) (srclk ser : LineId) (b : Byte) : (s.clockByte srclk ser b).spiCfg = s.spiCfg := by
  simp [State.clockByte, bitsOut]
@[simp] theorem State.clockByte_mem (s : State) (srclk ser : LineId) (b : Byte) : (s.clockByte srclk ser b).mem = s.mem := by
  simp [State.clockByte, bitsOut]
@[simp] theorem State.clockByte_gpioIn (s : State) (srclk ser : LineId) (b : Byte) : (s.clockByte srclk ser b).gpioIn = s.gpioIn := by
  simp [State.clockByte, bitsOut]
@[simp] theorem State.clockByte_stim (s : State) (srclk ser : LineId) (b : Byte) : (s.clockByte srclk ser b).stim = s.stim := by
  simp [State.clockByte, bitsOut]
@[simp] theorem State.clockByte_draws (s : State) (srclk ser : LineId) (b : Byte) : (s.clockByte srclk ser b).draws = s.draws := by
  simp [State.clockByte, bitsOut]
@[simp] theorem State.clockByte_result (s : State) (srclk ser : LineId) (b : Byte) : (s.clockByte srclk ser b).result = s.result := by
  simp [State.clockByte, bitsOut]
@[simp] theorem State.clockBytes_dbInit (srclk ser : LineId) (n : Nat) (a : Addr) (s : State) :
    (State.clockBytes srclk ser n a s).dbInit = s.dbInit := by
  induction n generalizing a s with
  | zero => rfl
  | succ n ih => simp [State.clockBytes, ih]
@[simp] theorem State.clockBytes_dbTim (srclk ser : LineId) (n : Nat) (a : Addr) (s : State) :
    (State.clockBytes srclk ser n a s).dbTim = s.dbTim := by
  induction n generalizing a s with
  | zero => rfl
  | succ n ih => simp [State.clockBytes, ih]
@[simp] theorem State.clockBytes_dbPeriod (srclk ser : LineId) (n : Nat) (a : Addr) (s : State) :
    (State.clockBytes srclk ser n a s).dbPeriod = s.dbPeriod := by
  induction n generalizing a s with
  | zero => rfl
  | succ n ih => simp [State.clockBytes, ih]
@[simp] theorem State.clockBytes_timRun (srclk ser : LineId) (n : Nat) (a : Addr) (s : State) :
    (State.clockBytes srclk ser n a s).timRun = s.timRun := by
  induction n generalizing a s with
  | zero => rfl
  | succ n ih => simp [State.clockBytes, ih]
@[simp] theorem State.clockBytes_timCnt (srclk ser : LineId) (n : Nat) (a : Addr) (s : State) :
    (State.clockBytes srclk ser n a s).timCnt = s.timCnt := by
  induction n generalizing a s with
  | zero => rfl
  | succ n ih => simp [State.clockBytes, ih]
@[simp] theorem State.clockBytes_dbCount (srclk ser : LineId) (n : Nat) (a : Addr) (s : State) :
    (State.clockBytes srclk ser n a s).dbCount = s.dbCount := by
  induction n generalizing a s with
  | zero => rfl
  | succ n ih => simp [State.clockBytes, ih]
@[simp] theorem State.clockBytes_dbMask (srclk ser : LineId) (n : Nat) (a : Addr) (s : State) :
    (State.clockBytes srclk ser n a s).dbMask = s.dbMask := by
  induction n generalizing a s with
  | zero => rfl
  | succ n ih => simp [State.clockBytes, ih]
@[simp] theorem State.clockBytes_line (srclk ser : LineId) (n : Nat) (a : Addr) (s : State) :
    (State.clockBytes srclk ser n a s).line = s.line := by
  induction n generalizing a s with
  | zero => rfl
  | succ n ih => simp [State.clockBytes, ih]
@[simp] theorem State.clockBytes_spiRegCount (srclk ser : LineId) (n : Nat) (a : Addr) (s : State) :
    (State.clockBytes srclk ser n a s).spiRegCount = s.spiRegCount := by
  induction n generalizing a s with
  | zero => rfl
  | succ n ih => simp [State.clockBytes, ih]
@[simp] theorem State.clockBytes_spiReg (srclk ser : LineId) (n : Nat) (a : Addr) (s : State) :
    (State.clockBytes srclk ser n a s).spiReg = s.spiReg := by
  induction n generalizing a s with
  | zero => rfl
  | succ n ih => simp [State.clockBytes, ih]
@[simp] theorem State.clockBytes_spi (srclk ser : LineId) (n : Nat) (a : Addr) (s : State) :
    (State.clockBytes srclk ser n a s).spi = s.spi := by
  induction n generalizing a s with
  | zero => rfl
  | succ n ih => simp [State.clockBytes, ih]
@[simp] theorem State.clockBytes_extiImr (srclk ser : LineId) (n : Nat) (a : Addr) (s : State) :
    (State.clockBytes srclk ser n a s).extiImr = s.extiImr := by
  induction n generalizing a s with
  | zero => rfl
  | succ n ih => simp [State.clockBytes, ih]
@[simp] theorem State.clockBytes_extiPortsel (srclk ser : LineId) (n : Nat) (a : Addr) (s : State) :
    (State.clockBytes srclk ser n a s).extiPortsel = s.extiPortsel := by
  induction n generalizing a s with
  | zero => rfl
  | succ n ih => simp [State.clockBytes, ih]
@[simp] theorem State.clockBytes_spiCfg (srclk ser : LineId) (n : Nat) (a : Addr) (s : State) :
    (State.clockBytes srclk ser n a s).spiCfg = s.spiCfg := by
  induction n generalizing a s with
  | zero => rfl
  | succ n ih => simp [State.clockBytes, ih]
@[simp] theorem State.clockBytes_mem (srclk ser : LineId) (n : Nat) (a : Addr) (s : State) :
    (State.clockBytes srclk ser n a s).mem = s.mem := by
  induction n generalizing a s with
  | zero => rfl
  | succ n ih => simp [State.clockBytes, ih]
@[simp] theorem State.clockBytes_gpioIn (srclk ser : LineId) (n : Nat) (a : Addr) (s : State) :
    (State.clockBytes srclk ser n a s).gpioIn = s.gpioIn := by
  induction n generalizing a s with
  | zero => rfl
  | succ n ih => simp [State.clockBytes, ih]
@[simp] theorem State.clockBytes_stim (srclk ser : LineId) (n : Nat) (a : Addr) (s : State) :
    (State.clockBytes srclk ser n a s).stim = s.stim := by
  induction n generalizing a s with
  | zero => rfl
  | succ n ih => simp [State.clockBytes, ih]
@[simp] theorem State.clockBytes_draws (srclk ser : LineId) (n : Nat) (a : Addr) (s : State) :
    (State.clockBytes srclk ser n a s).draws = s.draws := by
  induction n generalizing a s with
  | zero => rfl
  | succ n ih => simp [State.clockBytes, ih]
@[simp] theorem State.clockBytes_result (srclk ser : LineId) (n : Nat) (a : Addr) (s : State) :
    (State.clockBytes srclk ser n a s).result = s.result := by
  induction n generalizing a s with
  | zero => rfl
  | succ n ih => simp [State.clockBytes, ih]
@[simp] theorem State.performComplete_dbInit (s : State) (h : SpiHandle) : (s.performComplete h).dbInit = s.dbInit := by
  unfold State.performComplete; split <;> rfl
@[simp] theorem State.performComplete_dbTim (s : State) (h : SpiHandle) : (s.performComplete h).dbTim = s.dbTim := by
  unfold State.performComplete; split <;> rfl
@[simp] theorem State.performComplete_dbPeriod (s : State) (h : SpiHandle) : (s.performComplete h).dbPeriod = s.dbPeriod := by
  unfold State.performComplete; split <;> rfl
@[simp] theorem State.performComplete_timRun (s : State) (h : SpiHandle) : (s.performComplete h).timRun = s.timRun := by
  unfold State.performComplete; split <;> rfl
@[simp] theorem State.performComplete_timCnt (s : State) (h : SpiHandle) : (s.performComplete h).timCnt = s.timCnt := by
  unfold State.performComplete; split <;> rfl
@[simp] theorem State.performComplete_dbCount (s : State) (h : SpiHandle) : (s.performComplete h).dbCount = s.dbCount := by
  unfold State.performComplete; split <;> rfl
@[simp] theorem State.performComplete_dbMask (s : State) (h : SpiHandle) : (s.performComplete h).dbMask = s.dbMask := by
  unfold State.performComplete; split <;> rfl
@[simp] theorem State.performComplete_line (s : State) (h : SpiHandle) : (s.performComplete h).line = s.line := by
  unfold State.performComplete; split <;> rfl
@[simp] theorem State.performComplete_spiRegCount (s : State) (h : SpiHandle) : (s.performComplete h).spiRegCount = s.spiRegCount := by
  unfold State.performComplete; split <;> rfl
@[simp] theorem State.performComplete_spiReg (s : State) (h : SpiHandle) : (s.performComplete h).spiReg = s.spiReg := by
  unfold State.performComplete; split <;> rfl
@[simp] theorem State.performComplete_spi (s : State) (h : SpiHandle) : (s.performComplete h).spi = s.spi := by
  unfold State.performComplete; split <;> rfl
@[simp] theorem State.performComplete_extiImr (s : State) (h : SpiHandle) : (s.performComplete h).extiImr = s.extiImr := by
  unfold State.performComplete; split <;> rfl
@[simp] theorem State.performComplete_extiPortsel (s : State) (h : SpiHandle) : (s.performComplete h).extiPortsel = s.extiPortsel := by
  unfold State.performComplete; split <;> rfl
@[simp] theorem State.performComplete_spiCfg (s : State) (h : SpiHandle) : (s.performComplete h).spiCfg = s.spiCfg := by
  unfold State.performComplete; split <;> rfl
@[simp] theorem State.performComplete_mem (s : State) (h : SpiHandle) : (s.performComplete h).mem = s.mem := by
  unfold State.performComplete; split <;> rfl
@[simp] theorem State.performComplete_gpioIn (s : State) (h : SpiHandle) : (s.performComplete h).gpioIn = s.gpioIn := by
  unfold State.performComplete; split <;> rfl
@[simp] theorem State.performComplete_stim (s : State) (h : SpiHandle) : (s.performComplete h).stim = s.stim := by
  unfold State.performComplete; split <;> rfl
@[simp] theorem State.performComplete_draws (s : State) (h : SpiHandle) : (s.performComplete h).draws = s.draws := by
  unfold State.performComplete; split <;> rfl
@[simp] theorem State.performComplete_result (s : State) (h : SpiHandle) : (s.performComplete h).result = s.result := by
  unfold State.performComplete; split <;> rfl

end Sys2Proof.Machine
end

