-- ==== Sys2Proof/Laws/Ops.lean ====
section
/-! SUPPORT. What each shared operation can do, said once: the peripherals, `SpiSend`, the settle scan, the completion, the clocking of
bits, and the outcome of every step. -/

namespace Sys2Proof.Machine

/-! ## Lists read at a prefix -/

theorem take_succ_snoc {α : Type} (l : List α) (n : Nat) (e : α) (h : l[n]? = some e) : l.take (n + 1) = l.take n ++ [e] := by
  rw [List.take_add_one, h]; rfl

/-! ## SPI peripherals (R34) -/

@[simp] theorem periph_zero (s : State) : s.periph 0#2 = none := rfl

/-- Every handle but 0 has a peripheral. -/
theorem periph_isSome (s : State) (h : SpiHandle) (hne : h ≠ 0#2) : ∃ p, s.periph h = some p := by
  have hlt : h.toNat < 4 := h.isLt
  have hpos : h.toNat ≠ 0 := fun h0 => hne (BitVec.eq_of_toNat_eq (by simpa using h0))
  unfold State.periph
  split
  · next h0 => exact absurd h0 hpos
  · next n hn => exact ⟨s.spi[n]'(by omega), Vector.getElem?_eq_getElem (by omega)⟩

theorem periph_ne_zero {s : State} {h : SpiHandle} {p : SpiPeriph} (hp : s.periph h = some p) : h ≠ 0#2 := by
  rintro rfl; simp at hp

/-- The peripherals depend on nothing but the transfer state. -/
theorem periph_congr {s t : State} (h : t.spi = s.spi) (i : SpiHandle) : t.periph i = s.periph i := by
  unfold State.periph; rw [h]

/-- A peripheral after one was written: that one, and the others as they were. -/
theorem periph_setPeriph (s : State) (h i : SpiHandle) (p : SpiPeriph) (hne : h ≠ 0#2) :
    (s.setPeriph h p).periph i = if i = h then some p else s.periph i := by
  have hlt : h.toNat < 4 := h.isLt
  have hpos : h.toNat ≠ 0 := fun h0 => hne (BitVec.eq_of_toNat_eq (by simpa using h0))
  obtain ⟨n, hn⟩ := Nat.exists_eq_succ_of_ne_zero hpos
  have hset : (s.setPeriph h p).spi = s.spi.setIfInBounds n p := by
    unfold State.setPeriph; rw [hn]
  by_cases hi : i = h
  · subst hi
    unfold State.periph
    rw [hn, if_pos rfl, hset]
    simp only [Vector.getElem?_setIfInBounds]
    simp; omega
  · rw [if_neg hi]
    unfold State.periph
    split
    · rfl
    · next m hm =>
      rw [hset, Vector.getElem?_setIfInBounds]
      rw [if_neg]
      rintro rfl
      exact hi (BitVec.eq_of_toNat_eq (by omega))

/-- What `SpiSend` answers and does (R156): busy, nothing to send, the draw, or the transfer is taken. -/
theorem spiSend_cases (s : State) (h : SpiHandle) (addr : Addr) (len : Len) (p : SpiPeriph) (hp : s.periph h = some p) :
    s.spiSend h addr len =
      if p.busy then (peBusy, s)
      else if len = 0#8 then (peError, s)
      else if s.spiSendDraw h ≠ 0#8 then (s.spiSendDraw h, s)
      else (0#8, (s.setPeriph h { busy := true, addr := addr, len := len, idx := 0#8 }).sendEvent h addr len) := by
  unfold State.spiSend; rw [hp]

/-! ## The settle scan (R120 to R123) -/

/-- The live level read at an entry does not depend on the scan. -/
theorem scanLine_of_getElem (s : State) (i : Nat) (e : LineEntry) (h : s.line[i]? = some e) :
    s.scanLine i =
      if liveLevel s.gpioIn e ≠ e.lastState then (s.callback e.cb (liveLevel s.gpioIn e)).setLastState i (liveLevel s.gpioIn e)
      else s := by
  unfold State.scanLine liveLevel; rw [h]

theorem setLastState_line (s : State) (i : Nat) (v : Level) (e : LineEntry) (h : s.line[i]? = some e) :
    (s.setLastState i v).line = s.line.setIfInBounds i { e with lastState := v } := by
  unfold State.setLastState; rw [h]

/-- The line table after the scan of the first `n` entries: those hold the live level, the others are as they were. -/
theorem scanLines_line (s : State) (n i : Nat) :
    (s.scanLines n).line[i]? =
      if i < n then (s.line[i]?).map (fun e => { e with lastState := liveLevel s.gpioIn e }) else s.line[i]? := by
  induction n generalizing i with
  | zero => simp [State.scanLines]
  | succ n ih =>
    have hnn : (s.scanLines n).line[n]? = s.line[n]? := by
      have := ih n
      rwa [if_neg (lt_irrefl n)] at this
    unfold State.scanLines
    cases he : s.line[n]? with
    | none =>
      have : (s.scanLines n).scanLine n = s.scanLines n := by unfold State.scanLine; rw [hnn, he]
      rw [this, ih]
      rcases lt_trichotomy i n with h | h | h
      · simp [h, Nat.lt_succ_of_lt h]
      · subst h; simp [he]
      · simp [show ¬ i < n by omega, show ¬ i < n + 1 by omega]
    | some e =>
      have hlive : liveLevel (s.scanLines n).gpioIn e = liveLevel s.gpioIn e := by simp
      have hlt : n < 16 := by
        by_contra hc
        rw [Vector.getElem?_eq_none (by omega)] at he; cases he
      rw [scanLine_of_getElem _ _ e (hnn.trans he), hlive]
      by_cases hch : liveLevel s.gpioIn e ≠ e.lastState
      · rw [if_pos hch, setLastState_line _ _ _ e (by simpa using hnn.trans he), State.callback_line,
          Vector.getElem?_setIfInBounds, ih]
        rcases lt_trichotomy i n with h | h | h
        · simp [h, Nat.lt_succ_of_lt h, Nat.ne_of_gt h]
        · subst h
          rw [if_pos rfl, if_pos hlt, if_pos (Nat.lt_succ_self i), he, Option.map_some]
        · simp [show ¬ i < n by omega, show ¬ i < n + 1 by omega, Nat.ne_of_lt h]
      · rw [if_neg hch, ih]
        rcases lt_trichotomy i n with h | h | h
        · simp [h, Nat.lt_succ_of_lt h]
        · subst h
          have : liveLevel s.gpioIn e = e.lastState := by simpa using hch
          simp [he, this]
        · simp [show ¬ i < n by omega, show ¬ i < n + 1 by omega]

/-- The events of the scan of two lists of entries one after the other. -/
theorem settleEvents_append (g : Sparse Level) (l m : List LineEntry) :
    settleEvents g (l ++ m) = settleEvents g l ++ settleEvents g m := by
  induction l with
  | nil => rfl
  | cons e l ih => simp only [List.cons_append, settleEvents, ih]; split <;> rfl

/-- The trace after the scan of the first `n` entries: one callback event for each changed line, in order. -/
theorem scanLines_outTrace (s : State) (n : Nat) :
    (s.scanLines n).outTrace = s.outTrace ++ settleEvents s.gpioIn (s.line.toList.take n) := by
  induction n with
  | zero => simp [State.scanLines, settleEvents]
  | succ n ih =>
    have hnn : (s.scanLines n).line[n]? = s.line[n]? := by
      have := scanLines_line s n n
      rwa [if_neg (lt_irrefl n)] at this
    unfold State.scanLines
    cases he : s.line[n]? with
    | none =>
      have : (s.scanLines n).scanLine n = s.scanLines n := by unfold State.scanLine; rw [hnn, he]
      rw [this, ih, List.take_add_one]
      have : s.line.toList[n]? = none := by simpa using he
      simp [this]
    | some e =>
      have hl : s.line.toList[n]? = some e := by simpa using he
      have hlive : liveLevel (s.scanLines n).gpioIn e = liveLevel s.gpioIn e := by simp
      rw [scanLine_of_getElem _ _ e (hnn.trans he), hlive, take_succ_snoc _ _ _ hl, settleEvents_append]
      by_cases hch : liveLevel s.gpioIn e ≠ e.lastState
      · simp [hch, ih, settleEvents]
      · rw [if_neg hch, ih]; simp [hch, settleEvents]

/-- All that the settle handler does (R120): the timer stops, the line table and the trace follow the scan, all else is as it was. -/
theorem performSettle_eq (s : State) :
    s.performSettle = { s with
      timRun := false, line := s.performSettle.line, outTrace := s.outTrace ++ settleEvents s.gpioIn s.lines } := by
  have h : s.performSettle.outTrace = s.outTrace ++ settleEvents s.gpioIn s.lines := by
    simp [State.performSettle, scanLines_outTrace, State.lines]
  rw [← h]
  apply State.ext <;> simp

/-- The line table after a settle: every registered entry holds its live level (R120). -/
theorem performSettle_line (s : State) (i : Nat) :
    s.performSettle.line[i]? =
      if i < s.dbCount.toNat then (s.line[i]?).map (fun e => { e with lastState := liveLevel s.gpioIn e }) else s.line[i]? := by
  simp [State.performSettle, scanLines_line]

/-! ## The completion (R152 to R154) -/

/-- With no owner the completion changes nothing (R153). -/
theorem performComplete_none (s : State) (h : SpiHandle) (ho : s.owner h = none) : s.performComplete h = s := by
  unfold State.performComplete; rw [ho]

/-- With an owner its storage clock is driven low, then high (R152). -/
theorem performComplete_some (s : State) (h : SpiHandle) (e : SpiRegEntry) (ho : s.owner h = some e) :
    s.performComplete h =
      ((s.gpioWrite (descRclk e.inst) false).gpioWrite (descRclk e.inst) true).redrawShared := by
  unfold State.performComplete; rw [ho]

/-- The owner depends on nothing but the registry. -/
theorem owner_congr {s t : State} (hc : t.spiRegCount = s.spiRegCount) (hr : t.spiReg = s.spiReg) (h : SpiHandle) :
    t.owner h = s.owner h := by
  have : ∀ fuel j, t.ownerFrom h j fuel = s.ownerFrom h j fuel := by
    intro fuel
    induction fuel with
    | zero => intro j; rfl
    | succ fuel ih => intro j; simp only [State.ownerFrom, hc, hr, ih]
  exact this _ _

/-- The owner is the first meaningful entry with the handle (R154). -/
theorem owner_eq_find (s : State) (h : SpiHandle) : s.owner h = s.registry.find? (fun e => e.h == h) := by
  obtain ⟨a, b, c, hl⟩ : ∃ a b c, s.spiReg.toList = [a, b, c] :=
    List.length_eq_three.mp (by simp)
  have hget : ∀ j : Nat, s.spiReg[j]? = [a, b, c][j]? := by intro j; rw [← hl]; simp
  have hcnt : s.spiRegCount.toNat < 4 := s.spiRegCount.isLt
  unfold State.owner State.registry
  rw [hl]
  have h4 : s.spiRegCount.toNat = 0 ∨ s.spiRegCount.toNat = 1 ∨ s.spiRegCount.toNat = 2 ∨ s.spiRegCount.toNat = 3 := by omega
  rcases h4 with hn | hn | hn | hn <;>
    simp only [Config.spiRegCapacity, State.ownerFrom, hn, hget] <;>
    by_cases ha : a.h = h <;> by_cases hb : b.h = h <;> by_cases hc : c.h = h <;> simp [ha, hb, hc, List.find?, beq_eq_decide]

/-! ## Shared lines (R232, U11) -/

theorem redrawFrom_getElem? (s : State) (n m k : Nat) (cs : List Cascade) :
    (redrawFrom s n m cs)[k]? = cs[k]?.map (fun c => if s.sharesLine c then c.anyValue n (m + k) else c) := by
  induction cs generalizing m k with
  | nil => rfl
  | cons c cs ih =>
    cases k with
    | zero => simp [redrawFrom]
    | succ k => simp [redrawFrom, ih, Nat.add_comm, Nat.add_left_comm]

/-- What `redrawShared` does to the cascade at each place: any value where it shares a line, nothing elsewhere. -/
theorem redrawShared_getElem? (s : State) (k : Nat) :
    s.redrawShared.cascades[k]? =
      s.cascades[k]?.map (fun c => if s.sharesLine c then c.anyValue s.outTrace.length k else c) := by
  simp [redrawFrom_getElem?]

/-- What a cascade is apart from its stages: its lines, its chips and the observer's bit. -/
def Cascade.key (c : Cascade) : Tap × Nat × Bool := (c.tap, c.chips, c.shared)

@[simp] theorem Cascade.anyValue_key (n k : Nat) (c : Cascade) : (c.anyValue n k).key = c.key := rfl

/-- A drive changes at most the stages of a cascade. -/
@[simp] theorem Cascade.onDrive_key (out : Sparse (Option Level)) (ln : LineId) (v : Level) (n k : Nat) (c : Cascade) :
    (c.onDrive out ln v n k).key = c.key := by
  unfold Cascade.onDrive Cascade.shiftClockHigh Cascade.storageClockHigh
  repeat' (first | rfl | split)

/-- A byte sent changes at most the shift stages of a cascade. -/
@[simp] theorem Cascade.onTransmit_key (h : SpiHandle) (b : Byte) (c : Cascade) : (c.onTransmit h b).key = c.key := by
  unfold Cascade.onTransmit
  repeat' (first | rfl | split)

/-- An instance that becomes known changes at most the observer's bit, and sets it exactly for a cascade that has one of its lines and
does not show it. -/
theorem Cascade.meetInst_key (i : Inst) (c : Cascade) :
    (c.meetInst i).key = (c.tap, c.chips, c.shared || (meets i.lines c.tap.lines && !c.shows i)) := by
  unfold Cascade.meetInst
  split
  · next h => rw [h, Bool.or_true]; rfl
  · next h => rw [Bool.not_eq_true] at h; rw [h, Bool.or_false]; rfl

/-- The cascades after a drive, at each place. -/
theorem observeDrive_getElem? (out : Sparse (Option Level)) (ln : LineId) (v : Level) (n m k : Nat) (cs : List Cascade) :
    (observeDrive out ln v n m cs)[k]? = cs[k]?.map (fun c => c.onDrive out ln v n (m + k)) := by
  induction cs generalizing m k with
  | nil => rfl
  | cons c cs ih =>
    cases k with
    | zero => simp [observeDrive]
    | succ k => simp [observeDrive, ih, Nat.add_comm, Nat.add_left_comm]

theorem any_map_congr {α β : Type} (f : α → β) (p : α → Bool) (hp : ∀ a b, f a = f b → p a = p b) {l m : List α}
    (h : l.map f = m.map f) : l.any p = m.any p := by
  induction l generalizing m with
  | nil => cases m with
    | nil => rfl
    | cons b m => simp at h
  | cons a l ih => cases m with
    | nil => simp at h
    | cons b m =>
      simp only [List.map_cons, List.cons.injEq] at h
      simp only [List.any_cons, hp a b h.1, ih h.2]

/-- Sharing depends on the cascade's lines, chips and bit, the buttons, the registry, and the lines and chips of the cascades. -/
theorem sharesLine_congr {s t : State} {c d : Cascade} (hb : t.buttonLines = s.buttonLines)
    (hr : t.registeredInsts = s.registeredInsts)
    (hc : t.cascades.map (fun c => (c.tap, c.chips)) = s.cascades.map (fun c => (c.tap, c.chips))) (hd : d.key = c.key) :
    t.sharesLine d = s.sharesLine c := by
  simp only [Cascade.key, Prod.mk.injEq] at hd
  obtain ⟨h1, h2, h3⟩ := hd
  have hshows : ∀ i, d.shows i = c.shows i := by intro i; unfold Cascade.shows; rw [h1]
  have hdist : d.distinct = c.distinct := by unfold Cascade.distinct; rw [h1]
  have hany := any_map_congr (fun c : Cascade => (c.tap, c.chips))
    (fun e => (e.tap != c.tap || e.chips != c.chips) && meets e.tap.lines c.tap.lines)
    (by intro a b hab; simp only [Prod.mk.injEq] at hab; simp only [hab.1, hab.2]) hc
  unfold State.sharesLine
  simp only [hb, hr, h1, h2, h3, hshows, hdist, hany]

/-! ## Clocking bits out (R147) -/

@[simp] theorem clockBit_outTrace (s : State) (srclk ser : LineId) (b : Level) :
    (s.clockBit srclk ser b).outTrace = s.outTrace ++ bitDrives srclk ser b := by
  simp [State.clockBit, bitDrives]

@[simp] theorem clockByte_outTrace (s : State) (srclk ser : LineId) (b : Byte) :
    (s.clockByte srclk ser b).outTrace = s.outTrace ++ byteDrives srclk ser b := by
  simp [State.clockByte, bitsOut, byteDrives]

/-- The first byte of a buffer, then the rest. -/
theorem bufferBytes_succ (m : Memory) (a : Addr) (n : Nat) :
    bufferBytes m a (n + 1) = memRead m a :: bufferBytes m (a + 1#16) n := by
  unfold bufferBytes
  rw [List.range_succ_eq_map, List.map_cons, List.map_map]
  congr 1
  · simp
  · apply List.map_congr_left
    intro i _
    simp only [Function.comp]
    congr 1
    rw [BitVec.add_assoc]
    congr 1
    apply BitVec.eq_of_toNat_eq
    simp [Nat.add_comm]

@[simp] theorem bufferBytes_length (m : Memory) (a : Addr) (n : Nat) : (bufferBytes m a n).length = n := by simp [bufferBytes]

/-- The trace of `n` bytes clocked out. -/
theorem clockBytes_outTrace (srclk ser : LineId) (n : Nat) (a : Addr) (s : State) :
    (State.clockBytes srclk ser n a s).outTrace = s.outTrace ++ (bufferBytes s.mem a n).flatMap (byteDrives srclk ser) := by
  induction n generalizing a s with
  | zero => simp [State.clockBytes, bufferBytes]
  | succ n ih => simp [State.clockBytes, ih, bufferBytes_succ]

/-- Clocking bytes out changes the output levels, the trace and the observer, and nothing else. -/
theorem clockBytes_eq (srclk ser : LineId) (n : Nat) (a : Addr) (s : State) :
    State.clockBytes srclk ser n a s = { s with
      gpioOut := (State.clockBytes srclk ser n a s).gpioOut, cascades := (State.clockBytes srclk ser n a s).cascades,
      outTrace := s.outTrace ++ (bufferBytes s.mem a n).flatMap (byteDrives srclk ser) } := by
  rw [← clockBytes_outTrace]
  apply State.ext <;> simp

/-! ## Every operation answers a next state (R190) -/

/-- No operation faults and none is refused. -/
theorem exec_eq_next (i : Instr) (s : State) : exec i s = .next (afterOp i s) := by
  cases i <;> rfl

theorem afterOp_of_exec {i : Instr} {s t : State} (h : exec i s = .next t) : afterOp i s = t := by
  rw [exec_eq_next] at h; cases h; rfl

end Sys2Proof.Machine
end

