-- ==== Sys2Proof/Laws/PerInstr.lean ====
section
/-! SUPPORT. Two facts about the encoding of every operation, one lemma per constructor of `Instr`: the opcode byte stands in bits
[7:0] (R80, R91), and every must-be-zero bit of the format is 0 (R100). -/

namespace Sys2Proof.Laws

/-- The opcode byte of the encoding is the operation's (R80, R91). -/
def OpcodeByte.Statement (i : Instr) : Prop := field (encode i) 0 8 = i.op.code

/-- The encoding sets no must-be-zero bit of its format (R100). -/
def MustBeZero.Statement (i : Instr) : Prop := encode i &&& i.op.format.mbz = 0#64

/-- The low bits of a concatenation are the low bits of its low part. -/
theorem extractLsb'_append_low {v w : Nat} (x : BitVec v) (y : BitVec w) (lo len : Nat) (h : lo + len ≤ w) :
    (x ++ y).extractLsb' lo len = y.extractLsb' lo len := by
  apply BitVec.eq_of_getLsbD_eq
  intro i hi
  simp only [BitVec.getLsbD_extractLsb', BitVec.getLsbD_append, hi, decide_true, Bool.true_and]
  rw [if_pos (by omega)]

/-- The bits of a concatenation from its low part on are those of its high part. -/
theorem extractLsb'_append_high {v w : Nat} (x : BitVec v) (y : BitVec w) (lo len : Nat) (h : w ≤ lo) :
    (x ++ y).extractLsb' lo len = x.extractLsb' (lo - w) len := by
  apply BitVec.eq_of_getLsbD_eq
  intro i hi
  simp only [BitVec.getLsbD_extractLsb', BitVec.getLsbD_append, hi, decide_true, Bool.true_and]
  rw [if_neg (by omega)]
  congr 1
  omega

/-- The lowest part of a concatenation, whole. -/
theorem extractLsb'_append_whole {v w : Nat} (x : BitVec v) (y : BitVec w) : (x ++ y).extractLsb' 0 w = y := by
  rw [extractLsb'_append_low x y 0 w (by omega), BitVec.extractLsb'_eq_self]

/-- Two words with no bit of 1 in common. -/
theorem and_eq_zero_of_bits (x y : Word64) (h : ∀ i : Nat, i < 64 → y.getLsbD i = true → x.getLsbD i = false) : x &&& y = 0#64 := by
  apply BitVec.eq_of_getLsbD_eq
  intro i hi
  rw [BitVec.getLsbD_and, BitVec.getLsbD_zero]
  by_cases hy : y.getLsbD i = true
  · rw [h i hi hy]; rfl
  · rw [Bool.eq_false_of_not_eq_true hy, Bool.and_false]

theorem OpcodeByte.dbInit (tim : TimerHandle) (ms : Millis) : OpcodeByte.Statement (.dbInit tim ms) := extractLsb'_append_whole _ _

theorem OpcodeByte.dbRegister (port : PortNum) (pin : PinMask) (level : Level) (cb : CallbackId) : OpcodeByte.Statement (.dbRegister port pin level cb) := extractLsb'_append_whole _ _

theorem OpcodeByte.dbEdge (mask : PinMask) : OpcodeByte.Statement (.dbEdge mask) := extractLsb'_append_whole _ _

theorem OpcodeByte.dbSettle : OpcodeByte.Statement .dbSettle := rfl

theorem OpcodeByte.timTick : OpcodeByte.Statement .timTick := rfl

theorem OpcodeByte.srCreateGpio (srclk : LineId) (rclk : LineId) (ser : LineId) : OpcodeByte.Statement (.srCreateGpio srclk rclk ser) := extractLsb'_append_whole _ _

theorem OpcodeByte.srCreateSpi (spi : SpiHandle) (rclk : LineId) : OpcodeByte.Statement (.srCreateSpi spi rclk) := extractLsb'_append_whole _ _

theorem OpcodeByte.srWrite (inst : Desc) (addr : Addr) (len : Len) : OpcodeByte.Statement (.srWrite inst addr len) := extractLsb'_append_whole _ _

theorem OpcodeByte.srComplete (spi : SpiHandle) : OpcodeByte.Statement (.srComplete spi) := extractLsb'_append_whole _ _

theorem OpcodeByte.spiByte (spi : SpiHandle) : OpcodeByte.Statement (.spiByte spi) := extractLsb'_append_whole _ _

theorem OpcodeByte.spiFail (spi : SpiHandle) : OpcodeByte.Statement (.spiFail spi) := extractLsb'_append_whole _ _

theorem OpcodeByte.envLevel (line : LineId) (level : Level) : OpcodeByte.Statement (.envLevel line level) := extractLsb'_append_whole _ _

theorem OpcodeByte.envStore (addr : Addr) (val : Byte) : OpcodeByte.Statement (.envStore addr val) := extractLsb'_append_whole _ _

theorem MustBeZero.dbInit (tim : TimerHandle) (ms : Millis) : MustBeZero.Statement (.dbInit tim ms) := by
  apply and_eq_zero_of_bits
  intro i hi
  simp only [encode, Instr.op, Op.format, Format.mbz, BitVec.getLsbD_append]
  interval_cases i <;> simp

theorem MustBeZero.dbRegister (port : PortNum) (pin : PinMask) (level : Level) (cb : CallbackId) : MustBeZero.Statement (.dbRegister port pin level cb) := by
  apply and_eq_zero_of_bits
  intro i hi
  simp only [encode, Instr.op, Op.format, Format.mbz, BitVec.getLsbD_append]
  interval_cases i <;> simp

theorem MustBeZero.dbEdge (mask : PinMask) : MustBeZero.Statement (.dbEdge mask) := by
  apply and_eq_zero_of_bits
  intro i hi
  simp only [encode, Instr.op, Op.format, Format.mbz, BitVec.getLsbD_append]
  interval_cases i <;> simp

theorem MustBeZero.dbSettle : MustBeZero.Statement .dbSettle := rfl

theorem MustBeZero.timTick : MustBeZero.Statement .timTick := rfl

theorem MustBeZero.srCreateGpio (srclk : LineId) (rclk : LineId) (ser : LineId) : MustBeZero.Statement (.srCreateGpio srclk rclk ser) := by
  apply and_eq_zero_of_bits
  intro i hi
  simp only [encode, Instr.op, Op.format, Format.mbz, BitVec.getLsbD_append]
  interval_cases i <;> simp

theorem MustBeZero.srCreateSpi (spi : SpiHandle) (rclk : LineId) : MustBeZero.Statement (.srCreateSpi spi rclk) := by
  apply and_eq_zero_of_bits
  intro i hi
  simp only [encode, Instr.op, Op.format, Format.mbz, BitVec.getLsbD_append]
  interval_cases i <;> simp

theorem MustBeZero.srWrite (inst : Desc) (addr : Addr) (len : Len) : MustBeZero.Statement (.srWrite inst addr len) := BitVec.and_zero

theorem MustBeZero.srComplete (spi : SpiHandle) : MustBeZero.Statement (.srComplete spi) := by
  apply and_eq_zero_of_bits
  intro i hi
  simp only [encode, Instr.op, Op.format, Format.mbz, BitVec.getLsbD_append]
  interval_cases i <;> simp

theorem MustBeZero.spiByte (spi : SpiHandle) : MustBeZero.Statement (.spiByte spi) := by
  apply and_eq_zero_of_bits
  intro i hi
  simp only [encode, Instr.op, Op.format, Format.mbz, BitVec.getLsbD_append]
  interval_cases i <;> simp

theorem MustBeZero.spiFail (spi : SpiHandle) : MustBeZero.Statement (.spiFail spi) := by
  apply and_eq_zero_of_bits
  intro i hi
  simp only [encode, Instr.op, Op.format, Format.mbz, BitVec.getLsbD_append]
  interval_cases i <;> simp

theorem MustBeZero.envLevel (line : LineId) (level : Level) : MustBeZero.Statement (.envLevel line level) := by
  apply and_eq_zero_of_bits
  intro i hi
  simp only [encode, Instr.op, Op.format, Format.mbz, BitVec.getLsbD_append]
  interval_cases i <;> simp

theorem MustBeZero.envStore (addr : Addr) (val : Byte) : MustBeZero.Statement (.envStore addr val) := by
  apply and_eq_zero_of_bits
  intro i hi
  simp only [encode, Instr.op, Op.format, Format.mbz, BitVec.getLsbD_append]
  interval_cases i <;> simp

end Sys2Proof.Laws
end

