-- ==== Sys2Proof/Laws/Results.lean ====
section
/-! SUPPORT. The result words with value 0 as numbers, and the parts of a result word (30_encoding.md rules R96, R97). -/

namespace Sys2Proof.Machine

theorem resultWord_ok : resultWord .ok 0#32 = 0x0000000000000000#64 := by decide
theorem resultWord_capacity : resultWord .capacity 0#32 = 0x0000000000000001#64 := by decide
theorem resultWord_misconfig : resultWord .misconfig 0#32 = 0x0000000000000002#64 := by decide
theorem resultWord_invalidArg : resultWord .invalidArg 0#32 = 0x0000000000000003#64 := by decide
theorem resultWord_illegal : resultWord .illegal 0#32 = 0x000000000000007F#64 := by decide
theorem resultWord_peError : resultWord .periphError (peError.setWidth 32) = 0x0000000100000004#64 := by decide
theorem resultWord_peBusy : resultWord .periphError (peBusy.setWidth 32) = 0x0000000200000004#64 := by decide

/-- `PERIPH_ERROR` with the collaborator's code, zero-extended (R97, R194). -/
theorem resultWord_periphError (e : ErrCode) :
    resultWord .periphError (e.setWidth 32) = 0#24 ++ e ++ 0x00000004#32 := by
  apply BitVec.eq_of_getLsbD_eq
  intro i hi
  simp only [resultWord, Status.code, BitVec.getLsbD_append, BitVec.getLsbD_setWidth]
  interval_cases i <;> simp

/-- `OK` with a value (R96). -/
theorem resultWord_okValue (v : ResultValue) : resultWord .ok v = v ++ 0#32 := by
  apply BitVec.eq_of_getLsbD_eq
  intro i hi
  simp only [resultWord, Status.code, BitVec.getLsbD_append]
  interval_cases i <;> simp

@[simp] theorem resultStatus_resultWord (st : Status) (v : ResultValue) : resultStatus (resultWord st v) = st.code := by
  apply BitVec.eq_of_getLsbD_eq
  intro i hi
  simp only [resultStatus, resultWord, BitVec.getLsbD_extractLsb', BitVec.getLsbD_append]
  interval_cases i <;> simp

@[simp] theorem resultValue_resultWord (st : Status) (v : ResultValue) : resultValue (resultWord st v) = v := by
  apply BitVec.eq_of_getLsbD_eq
  intro i hi
  simp only [resultValue, resultWord, BitVec.getLsbD_extractLsb', BitVec.getLsbD_append]
  interval_cases i <;> simp

/-- Bits [31:8] of a result word are 0 (R96). -/
@[simp] theorem resultWord_middle (st : Status) (v : ResultValue) : (resultWord st v).extractLsb' 8 24 = 0#24 := by
  apply BitVec.eq_of_getLsbD_eq
  intro i hi
  simp only [resultWord, BitVec.getLsbD_extractLsb', BitVec.getLsbD_append]
  interval_cases i <;> simp

end Sys2Proof.Machine
end

