-- ==== Sys2Proof/Tests/Slice0.lean ====
section
/-! SUPPORT. Tests: words, masks and results from 95_test_vectors.md and 30_encoding.md (the vector is named in each comment), and for every
obligation with hypotheses a concrete state and operands that meet them (`witness_<Name>`). -/

namespace Sys2Proof.Tests

open Sys2Proof Sys2Proof.Machine

/-! ## Helpers -/

/-- A state right after reset with the launch parameters of most vectors. -/
def base : State :=
  State.atReset { Launch.named with extiImr := 0x2009#16, extiPortsel := #v[0, 0, 0, 1, 0, 0, 0, 0, 0, 0, 0, 0, 0, 2, 0, 0] }

/-- `base` with the state of RG2: PA0 and PC13 registered, the timer bound with a period of 50. -/
def armed (run : Bool) (cnt : Ticks) : State :=
  { base with
    dbInit := true, dbTim := 1, dbPeriod := 50, timRun := run, timCnt := cnt, dbCount := 2, dbMask := 0x2001,
    line := (base.line.set 0 ⟨0, 0x0001, false, 0x10⟩).set 1 ⟨2, 0x2000, true, 0x11⟩,
    gpioIn := [(0x00, true), (0x2D, true)] }

/-- `base` with the state of Q1: peripheral 1 busy with `len` bytes at 0x0200, `idx` of them sent. -/
def sending (len idx : Len) : State :=
  { base with
    spiRegCount := 1, spiReg := base.spiReg.set 0 ⟨1, 0x00160006⟩, spi := base.spi.set 0 ⟨true, 0x0200, len, idx⟩,
    mem := [(0x0200, 0xA5), (0x0201, 0x3F)], gpioOut := [(0x16, some false)] }

/-- The registry of CS14. -/
def registry3 : State :=
  { base with spiRegCount := 3, spiReg := #v[⟨1, 0x00160006⟩, ⟨2, 0x0017000A⟩, ⟨1, 0x00180006⟩] }

/-- The state with one word as its stimulus. -/
def given (w : Word64) (s : State) : State := { s with stim := [{ word := w, draws := s.draws }] }

/-- The state after the step of one word. -/
def run1 (w : Word64) (s : State) : State :=
  match step (given w s) with
  | .next t => t
  | .fault _ => s
  | .refused _ => s

/-! ## Well-formedness: its one check refuses -/

theorem test_wf_pin_empty_refused : wellFormed (.dbRegister 0 0x0000 false 0x14) = false := by decide
theorem test_wf_pin_two_bits_refused : wellFormed (.dbRegister 0 0x0003 false 0x14) = false := by decide
theorem test_wf_pin_top_bit : wellFormed (.dbRegister 15 0x8000 true 0xFF) = true := by decide

/-! ## Decoding: a word of every operation, from the vectors -/

/-- I1. -/
theorem test_decode_dbInit : decode 0x0000000000050101 = .ok (.dbInit 1 5) := by decide
/-- 2.2, the word with every field at its maximum. -/
theorem test_decode_dbRegister : decode 0x0000FF0180000F02 = .ok (.dbRegister 15 0x8000 true 0xFF) := by decide
/-- E7. -/
theorem test_decode_dbEdge : decode 0x0000000020020010 = .ok (.dbEdge 0x2002) := by decide
/-- 2.4. -/
theorem test_decode_dbSettle : decode 0x0000000000000011 = .ok .dbSettle := by decide
/-- 2.4. -/
theorem test_decode_timTick : decode 0x0000000000000012 = .ok .timTick := by decide
/-- A3. -/
theorem test_decode_srCreateGpio : decode 0x00000000FDFEFF20 = .ok (.srCreateGpio 0xFF 0xFE 0xFD) := by decide
/-- CS13. -/
theorem test_decode_srCreateSpi : decode 0x0000000000170221 = .ok (.srCreateSpi 2 0x17) := by decide
/-- Q1. -/
theorem test_decode_srWrite : decode 0x0016000602000222 = .ok (.srWrite 0x00160006 0x0200 2) := by decide
/-- K2. -/
theorem test_decode_srComplete : decode 0x0000000000000230 = .ok (.srComplete 2) := by decide
/-- Q16. -/
theorem test_decode_spiByte : decode 0x0000000000000331 = .ok (.spiByte 3) := by decide
/-- Q10. -/
theorem test_decode_spiFail : decode 0x0000000000000132 = .ok (.spiFail 1) := by decide
/-- L1. -/
theorem test_decode_envLevel : decode 0x0000000000012DE0 = .ok (.envLevel 0x2D true) := by decide
/-- B2. -/
theorem test_decode_envStore : decode 0x00000000FFFF81E1 = .ok (.envStore 0xFFFF 0x81) := by decide

/-- The illegal words I10, RG6, RG7, RG9, E8, T11, A4, CS18, K5, L4, B3, X1, X2. -/
theorem test_decode_illegal :
    decode 0x0000000000050501 = .error .mustBeZeroSet ∧ decode 0x0000140000030002 = .error .pinNotOneHot ∧
    decode 0x0000140000000002 = .error .pinNotOneHot ∧ decode 0x0000100200010002 = .error .mustBeZeroSet ∧
    decode 0x0000000000010110 = .error .mustBeZeroSet ∧ decode 0x0000000000000111 = .error .mustBeZeroSet ∧
    decode 0x0000000107060520 = .error .mustBeZeroSet ∧ decode 0x0000000001160121 = .error .mustBeZeroSet ∧
    decode 0x0000000000000530 = .error .mustBeZeroSet ∧ decode 0x0000000000032DE0 = .error .mustBeZeroSet ∧
    decode 0x00000001FFFF81E1 = .error .mustBeZeroSet ∧ decode 0x0000000000000000 = .error .unassignedOpcode ∧
    decode 0x00000000000000FF = .error .unassignedOpcode := by decide

/-- The `match` and `mask` columns of opcode_table.json, row by row (R100). -/
theorem test_opcode_table :
    Op.all.map (fun o => (o.mnemonic, 0#56 ++ o.code, 0xFF#64 ||| o.format.mbz)) =
      [("DB_INIT", 0x01#64, 0xFFFFFFFF0000FCFF#64), ("DB_REGISTER", 0x02#64, 0xFFFF00FE0000F0FF#64),
       ("DB_EDGE", 0x10#64, 0xFFFFFFFF0000FFFF#64), ("DB_SETTLE", 0x11#64, 0xFFFFFFFFFFFFFFFF#64),
       ("TIM_TICK", 0x12#64, 0xFFFFFFFFFFFFFFFF#64), ("SR_CREATE_GPIO", 0x20#64, 0xFFFFFFFF000000FF#64),
       ("SR_CREATE_SPI", 0x21#64, 0xFFFFFFFFFF00FCFF#64), ("SR_WRITE", 0x22#64, 0x00000000000000FF#64),
       ("SR_COMPLETE", 0x30#64, 0xFFFFFFFFFFFFFCFF#64), ("SPI_BYTE", 0x31#64, 0xFFFFFFFFFFFFFCFF#64),
       ("SPI_FAIL", 0x32#64, 0xFFFFFFFFFFFFFCFF#64), ("ENV_LEVEL", 0xE0#64, 0xFFFFFFFFFFFE00FF#64),
       ("ENV_STORE", 0xE1#64, 0xFFFFFFFF000000FF#64)] := by decide

/-- R64: the word of W1 as bytes. -/
theorem test_bytes_of_word :
    bytesOfWord 0x0706050101000122 = [0x22, 0x01, 0x00, 0x01, 0x01, 0x05, 0x06, 0x07] := by decide
theorem test_decodeTableWord : decodeTableWord 64 0x0706050101000122 = some (.srWrite 0x07060501 0x0100 1) := by decide
theorem test_decodeTableWord_illegal : decodeTableWord 8 0xFF = none := by decide
/-- The word placed by the host is the one the next step runs (RG1). -/
theorem test_withFetchWord :
    (match step (base.withFetchWord 64 0x0000100000010002) with
      | .next t => some t.dbCount
      | .fault _ => none
      | .refused _ => none) = some 1 := by decide

/-! ## One step of each operation -/

/-- I1 and I9: the period, the binding and the status. -/
theorem test_dbInit :
    (run1 0x0000000000050101 base).dbPeriod = 50 ∧ (run1 0x00000000FFFF0301 base).dbPeriod = 655350 ∧
    (run1 0x00000000FFFF0301 base).dbTim = 3 ∧ (run1 0x0000000000050101 base).result = some 0 := by decide
/-- I4, I5, I6 and I7: the failures and their order. -/
theorem test_dbInit_failures :
    (run1 0x0000000000050001 base).result = some 3 ∧ (run1 0x0000000000000101 base).result = some 0x0000000100000004 ∧
    (run1 0x0000000000000001 base).result = some 3 ∧
    (run1 0x0000000000050101 { base with draws := { Draws.accept with timCfgErr := 7 } }).result =
      some 0x0000000700000004 := by decide
/-- RG1 and RG5. -/
theorem test_dbRegister :
    (run1 0x0000100000010002 base).line[0]? = some ⟨0, 0x0001, false, 0x10⟩ ∧
    (run1 0x0000130100080102 (armed false 0)).dbMask = 0x2009 ∧
    (run1 0x0000130100080102 (armed false 0)).result = some 0x0000000300000000 := by decide
/-- RG3, RG4 and step 18 of P4: misconfigured, misrouted, full. -/
theorem test_dbRegister_failures :
    (run1 0x0000120000020002 base).result = some 2 ∧ (run1 0x0000130000080002 base).result = some 2 ∧
    (run1 0x0000510100020502 { base with dbCount := 16 }).result = some 1 := by decide
/-- E4 and E7. -/
theorem test_dbEdge :
    (run1 0x0000000000010010 (armed false 0)).timRun = true ∧ (run1 0x0000000020020010 (armed true 20)).timCnt = 0 := by decide
/-- E2, E3 and E5. -/
theorem test_dbEdge_filter :
    (run1 0x0000000000010010 { armed false 0 with dbInit := false }).result = some 3 ∧
    (run1 0x0000000000020010 { armed false 0 with dbInit := false }).result = some 0 ∧
    (run1 0x0000000000020010 (armed true 20)).timCnt = 20 := by decide
/-- T5, from T2: both lines change, in registration order. -/
theorem test_dbSettle :
    (run1 0x11 { armed false 0 with
      line := ((armed false 0).line.set 0 ⟨0, 0x0001, true, 0x10⟩), gpioIn := [] }).outTrace =
      [.cb 0x10 false, .cb 0x11 false] := by decide
/-- T7: `tim_cnt` is not written. -/
theorem test_dbSettle_count :
    (run1 0x11 (armed true 7)).timCnt = 7 ∧ (run1 0x11 (armed true 7)).timRun = false ∧
    (run1 0x11 (armed true 7)).result = none := by decide
/-- T1 and T3. -/
theorem test_timTick :
    (run1 0x12 (armed true 48)).timCnt = 49 ∧ (run1 0x12 (armed true 48)).outTrace = [] ∧
    (run1 0x12 (armed false 7)).timCnt = 7 := by decide
/-- T2: the 50th tick settles. -/
theorem test_timTick_expiry :
    (run1 0x12 (armed true 49)).timCnt = 0 ∧ (run1 0x12 (armed true 49)).timRun = false ∧
    (run1 0x12 (armed true 49)).outTrace = [.cb 0x10 true] ∧
    (run1 0x12 (armed true 49)).line[0]? = some ⟨0, 0x0001, true, 0x10⟩ := by decide
/-- A1 and A2. -/
theorem test_srCreateGpio :
    (run1 0x0000000007060520 base).result = some 0x0706050100000000 ∧
    (run1 0x0000000000000020 base).result = some 0x0000000100000000 := by decide
/-- CS13 and CS14. -/
theorem test_srCreateSpi :
    (run1 0x0000000000170221 (sending 2 0)).result = some 0x0017000A00000000 ∧
    (run1 0x0000000000170221 (sending 2 0)).spiReg[1]? = some ⟨2, 0x0017000A⟩ := by decide
/-- CS2, CS11 and CS17. -/
theorem test_srCreateSpi_failures :
    (run1 0x0000000000160121 { base with spiCfg := #v[0x43, 3, 3] }).result = some 2 ∧
    (run1 0x0000000000160021 base).result = some 3 ∧
    (run1 0x0000000000190321 { registry3 with spiCfg := #v[3, 3, 0x43] }).result = some 1 := by decide
/-- W4, the levels of the data line across the top of memory, and W1, the 26 events of byte 0xB2. -/
theorem test_srWrite_gpio :
    lineDrives 7 (run1 0x07060501FFFF0222 { base with mem := [(0x0000, 0x0F), (0xFFFF, 0x81)] }).outTrace =
      [true, false, false, false, false, false, false, true, false, false, false, false, true, true, true, true] ∧
    (run1 0x0706050101000122 { base with mem := [(0x0100, 0xB2)] }).outTrace =
      [.w 6 false,
       .w 5 false, .w 7 true, .w 5 true, .w 5 false, .w 7 false, .w 5 true,
       .w 5 false, .w 7 true, .w 5 true, .w 5 false, .w 7 true, .w 5 true,
       .w 5 false, .w 7 false, .w 5 true, .w 5 false, .w 7 false, .w 5 true,
       .w 5 false, .w 7 true, .w 5 true, .w 5 false, .w 7 false, .w 5 true,
       .w 6 true] := by decide
/-- Q2, Q6 and Q7: busy, nothing to send, refused by the draw; F12: accepted. -/
theorem test_srWrite_spi :
    (run1 0x0016000603000122 (sending 2 0)).result = some 0x0000000200000004 ∧
    (run1 0x0016000602000022 base).result = some 0x0000000100000004 ∧
    (run1 0x0016000602000222 { base with draws := { Draws.accept with spiSendErr := #v[5, 0, 0] } }).result =
      some 0x0000000500000004 ∧
    (run1 0x0000000601000122 base).outTrace = [.w 0 false, .send 1 0x0100 1] := by decide
/-- K1: the first entry of peripheral 1. -/
theorem test_srComplete : (run1 0x130 registry3).outTrace = [.w 0x16 false, .w 0x16 true] := by decide
/-- K3 and K4. -/
theorem test_srComplete_none : (run1 0x330 registry3).outTrace = [] ∧ (run1 0x030 registry3).outTrace = [] := by decide
/-- Q3 and Q4. -/
theorem test_spiByte :
    (run1 0x131 (sending 2 0)).outTrace = [.tx 1 0xA5] ∧
    (run1 0x131 (sending 2 1)).outTrace = [.tx 1 0x3F, .w 0x16 false, .w 0x16 true] ∧
    (run1 0x131 (sending 2 1)).spi[0]? = some ⟨false, 0x0200, 2, 2⟩ := by decide
/-- Q10. -/
theorem test_spiFail :
    (run1 0x132 (sending 2 1)).spi[0]? = some ⟨false, 0x0200, 2, 1⟩ ∧ (run1 0x132 (sending 2 1)).outTrace = [] := by decide
/-- L1, and L2 back to the unlisted level. -/
theorem test_envLevel :
    (run1 0x0000000000012DE0 base).gpioIn = [(0x2D, true)] ∧ (run1 0x0000000000002DE0 (armed false 0)).gpioIn = [(0, true)] := by
  decide
/-- B1, and a store of the unlisted byte. -/
theorem test_envStore :
    (run1 0x000000000100B2E1 (sending 2 0)).mem = [(0x0100, 0xB2), (0x0200, 0xA5), (0x0201, 0x3F)] ∧
    (run1 0x00000000020000E1 (sending 2 0)).mem = [(0x0201, 0x3F)] := by decide
/-- X1: an illegal word changes nothing but the result. -/
theorem test_illegal_step : run1 0 (armed true 20) = { armed true 20 with result := some 0x7F } := by decide

/-- Step 4 of P2, its last latch: the right digit's byte in chip 1, the left digit's in chip 0. -/
theorem test_observer_latch :
    (run1 0x0706050101000022 { base with
      gpioOut := [(6, some false)], cascades := [⟨.gpio 5 6 7, 2, 0x6D06, 0x1234, false⟩] }).cascades =
      [⟨.gpio 5 6 7, 2, 0x6D06, 0x6D06, false⟩] := by decide
/-- O5: the observer of an SPI cascade at Q4. -/
theorem test_observer_spi :
    (run1 0x131 { sending 2 1 with cascades := [⟨.spi 1 0x16, 2, 0x00A5, 0x0000, false⟩] }).cascades =
      [⟨.spi 1 0x16, 2, 0xA53F, 0xA53F, false⟩] := by decide

/-- R232, U11: a byte sent to an SPI cascade whose storage clock is also a button line (PB6) leaves any value in both stages. -/
theorem test_shared_button :
    (run1 0x131 { sending 2 0 with
      dbCount := 1, line := base.line.set 0 ⟨1, 0x0040, false, 0x10⟩,
      cascades := [⟨.spi 1 0x16, 2, 0x1111, 0x2222, false⟩] }).cascades =
      [⟨.spi 1 0x16, 2, Config.sharedChain _ 1 0, Config.sharedOutputs _ 1 0, false⟩] := by rfl
/-- R232, U11: after a write through an instance that has the shift clock of the cascade (0x05) and is not its own, a write through its
own instance leaves any value in both stages. -/
theorem test_shared_instance :
    (run1 0x0706050101000022 (run1 0x0908050101000022 { base with
      cascades := [⟨.gpio 5 6 7, 2, 0x1111, 0x2222, false⟩] })).cascades =
      [⟨.gpio 5 6 7, 2, Config.sharedChain _ 4 0, Config.sharedOutputs _ 4 0, true⟩] := by rfl

/-- R101: the textual form of RG1 and of a result. -/
theorem test_text :
    instrText (.dbRegister 0 0x0001 false 0x10) = "DB_REGISTER port=0, pin=0x0001, level=0, cb=0x10".toList ∧
    instrText (.srWrite 0x07060501 0x0100 1) = "SR_WRITE inst=0x07060501, addr=0x0100, len=1".toList ∧
    resultText .misconfig 0 = "-> MISCONFIG".toList := by decide

/-! ## Witnesses: concrete states and operands that meet the hypotheses of each obligation that has some -/

/-- Both units at work: two lines registered, the timer running, peripheral 1 busy, an SPI and a GPIO cascade observed. -/
def both : State :=
  { armed true 20 with
    spiRegCount := 1, spiReg := base.spiReg.set 0 ⟨1, 0x00160006⟩, spi := base.spi.set 0 ⟨true, 0x0200, 2, 0⟩,
    mem := [(0x0200, 0xA5), (0x0201, 0x3F)], gpioOut := [(0x16, some false)], outTrace := [.w 0x16 false],
    cascades := [⟨.spi 1 0x16, 2, 0x0000, 0x0000, false⟩, ⟨.gpio 5 6 7, 2, 0xABCD, 0x1234, false⟩] }

theorem both_lines : both.lines = [⟨0, 0x0001, false, 0x10⟩, ⟨2, 0x2000, true, 0x11⟩] := by decide
theorem both_registry : both.registry = [⟨1, 0x00160006⟩] := by decide
theorem both_debounceInv : both.DebounceInv where
  count_le := by decide
  mask_eq := by decide
  pin_oneHot := by rw [both_lines]; decide
  cnt_lt := by decide
  cnt_zero := by decide
  tim_bound := by decide
  period_range := by decide
  armed_mask := by decide
theorem both_shiftInv : both.ShiftInv where
  entry_ok := by rw [both_registry]; decide
  busy_left := by
    intro h p hp hb
    have hall : ∀ h : SpiHandle, ∀ q ∈ both.periph h, q.busy = true → q.idx.toNat < q.len.toNat := by decide
    exact hall h p hp hb
theorem both_inv : both.Inv where
  debounce := both_debounceInv
  shift := both_shiftInv
  form := ⟨by decide, by decide, by decide, by decide⟩

theorem witness_DecodeOfEncode : WellFormed (.dbRegister 15 0x8000 true 0xFF) ∧ WellFormed (.srWrite 0x07060501 0xFFFF 255) := by
  decide
theorem witness_EncodeOfDecode : decode 0x0000FF0180000F02 = .ok (.dbRegister 15 0x8000 true 0xFF) := by decide
/-- The three kinds of illegal word, the opcode that is no operation's, and the step of one. -/
theorem witness_IllegalWordsAndTheirStep :
    (∀ o : Op, o ∈ Op.all → field 0x0000000000000033#64 0 8 ≠ o.code) ∧
    (field 0x0000000000010110#64 0 8 = Op.dbEdge.code ∧ 0x0000000000010110#64 &&& Op.dbEdge.format.mbz ≠ 0#64) ∧
    (field 0x0000140000030002#64 0 8 = 0x02#8 ∧ popcount ((0x0000140000030002#64).extractLsb' 16 16) ≠ 1) ∧
    (given 0x0000140000000002 base).stim = [⟨0x0000140000000002, Draws.accept⟩] ∧
    decode 0x0000140000000002 = .error .pinNotOneHot := by decide
theorem witness_StepRunsDecodedOperation :
    (given 0x0000000000010010 both).stim = [⟨0x0000000000010010, Draws.accept⟩] ∧
    decode 0x0000000000010010 = .ok (.dbEdge 0x0001) := by decide
theorem witness_StepWaitsForAWord : State.reset.stim = [] ∧ both.stim = [] := by decide
/-- Launch parameters with something listed in each map. -/
def launched : Launch :=
  { Launch.named with mem := [(0xFFFF, 0x81)], gpioIn := [(0x2D, true)], cascades := [⟨.gpio 5 6 7, 2, 0xABCD, 0x1234, false⟩] }
theorem witness_ResetMeetsInvariants : launched.Wf := ⟨by decide, by decide, by decide⟩
/-- A state with both units at work meets the invariant, and a step of it (the 21st tick) answers a next state. -/
theorem witness_StepKeepsInv : (given 0x12 both).Inv ∧ step (given 0x12 both) = .next { both with timCnt := 21, result := none } :=
  ⟨⟨⟨by decide, by decide, both_debounceInv.pin_oneHot, by decide, by decide, by decide, by decide, by decide⟩,
    ⟨both_shiftInv.entry_ok, both_shiftInv.busy_left⟩, ⟨by decide, by decide, by decide, by decide⟩⟩, by rfl⟩
/-- After the settle of T2, one more tick: the level delivered last is `last_state`. -/
theorem witness_StepKeepsDelivered : (given 0x12 (run1 0x12 (armed true 49))).DeliveredInv ∧
    step (given 0x12 (run1 0x12 (armed true 49))) = .next (run1 0x12 (armed true 49)) := by
  have htr : (given 0x12 (run1 0x12 (armed true 49))).outTrace = [.cb 0x10 true] := by decide
  have hln : (given 0x12 (run1 0x12 (armed true 49))).lines = [⟨0, 0x0001, true, 0x10⟩, ⟨2, 0x2000, true, 0x11⟩] := by decide
  refine ⟨⟨?_, ?_⟩, by rfl⟩
  · intro id v hv
    rw [htr] at hv
    simp only [List.mem_singleton, Event.cb.injEq] at hv
    rw [hln]
    exact ⟨_, List.mem_cons_self, hv.1.symm⟩
  · intro i e he _
    rw [hln] at he
    rw [htr]
    match i, he with
    | 0, he => cases he; exact .inr (by decide)
    | 1, he => cases he; exact .inl (by decide)
    | n + 2, he => simp at he
theorem witness_StepKeepsDrivenByTrace : (given 0x131 both).DrivenByTrace ∧ ∃ t, step (given 0x131 both) = .next t := by
  refine ⟨?_, ⟨_, rfl⟩⟩
  intro ln
  by_cases h : ln = 0x16
  · subst h; decide
  · have hn : ¬ 22 = ln.toNat := fun h' => h (BitVec.eq_of_toNat_eq h'.symm)
    have h' : ¬ (22#8 : LineId) = ln := fun e => h e.symm
    have ho : (given 0x131 both).gpioOut = [(22, some false)] := by decide
    have ht : (given 0x131 both).outTrace = [.w 0x16 false] := by decide
    rw [ho, ht]
    simp [drivenLevel, Sparse.get, lineDrives, lastLevel, hn, h']
/-- The count at both ends of its range, full and empty. -/
theorem witness_DbRegisterOutcome : base.dbCount.toNat ≤ 16 ∧ ({ base with dbCount := 16 } : State).dbCount.toNat ≤ 16 := by decide
theorem witness_DbRegisterOfABadPin : popcount 0x0000 ≠ 1 ∧ popcount 0x0003 ≠ 1 ∧ popcount 0xFFFF ≠ 1 := by decide
/-- Stopped; running with one tick to go after this one; running with the last tick. -/
theorem witness_TimTickOutcome :
    (armed false 0).timRun = false ∧ ((armed true 48).timRun = true ∧ (armed true 48).timCnt + 1#20 ≠ (armed true 48).dbPeriod) ∧
    ((armed true 49).timRun = true ∧ (armed true 49).timCnt + 1#20 = (armed true 49).dbPeriod) := by decide
/-- The window of T1 and T2, and the shortest period. -/
theorem witness_SettleAfterExactlyOnePeriod :
    ((armed true 0).timRun = true ∧ (armed true 0).timCnt = 0#20 ∧ 1 ≤ (armed true 0).dbPeriod.toNat ∧
      49 < (armed true 0).dbPeriod.toNat) ∧
    1 ≤ ({ armed true 0 with dbPeriod := 1 } : State).dbPeriod.toNat := by decide
/-- A burst in the shape of P1, with a period of 3 ticks and commands of the other unit between the edges. -/
theorem witness_BurstHoldsTheSettleOff :
    ({ armed true 0 with dbPeriod := 3 } : State).dbInit = true ∧ ({ armed true 0 with dbPeriod := 3 } : State).timRun = true ∧
    windowTicks 3 0 { armed true 0 with dbPeriod := 3 }
      [.timTick, .timTick, .dbEdge 0x0001, .timTick, .envLevel 0x00 false, .timTick, .dbEdge 0x2000, .srComplete 1, .timTick] =
      some 1 := by decide
/-- A qualifying edge arms; a settle and the last tick do not leave it Armed; another operation leaves it as it was. -/
theorem witness_ArmedExactlyByQualifyingEdges : both.DebounceInv ∧
    (∃ t, exec (.dbEdge 0x0001) both = .next t ∧ t.debounceMode = .armed) ∧
    (∃ t, exec .dbSettle both = .next t ∧ t.debounceMode = .idle) ∧
    (∃ t, exec (.spiFail 1) both = .next t ∧ t.debounceMode = .armed) :=
  ⟨both_debounceInv, ⟨_, rfl, by decide⟩, ⟨_, rfl, by decide⟩, ⟨_, rfl, by decide⟩⟩
/-- CS1 and CS2, with an empty registry and with one slot left. -/
theorem witness_SpiContractNeedsAllSevenFields :
    (1#2 ≠ 0#2 ∧ base.spiRegCount.toNat < 3 ∧ base.spiCfg[(1#2).toNat - 1]? = some 0x03 ∧
      ∀ f ∈ [SpiCfgField.mstr, .ssm, .nfd, .dff16, .cpha2, .lsbfirst, .crcen], (0x03#7).getLsbD f.bit = f.required) ∧
    ({ registry3 with spiRegCount := 2 } : State).spiRegCount.toNat < 3 ∧
    (({ base with spiCfg := #v[0x43, 3, 3] } : State).spiCfg[(1#2).toNat - 1]? = some 0x43 ∧
      (0x43#7).getLsbD SpiCfgField.crcen.bit ≠ SpiCfgField.crcen.required) := by decide
/-- F1 to F3, F6, F7 are ill-formed; F11 and F12 are well-formed. -/
theorem witness_IllFormedDescriptorsAreRejected :
    ¬ DescWellFormed 0x00000000 ∧ ¬ DescWellFormed 0x07060503 ∧ ¬ DescWellFormed 0x07060500 ∧ ¬ DescWellFormed 0x07060505 ∧
    ¬ DescWellFormed 0x00160002 ∧ DescWellFormed 0x00000001 ∧ DescWellFormed 0x00000006 := by
  unfold DescWellFormed; refine ⟨?_, ?_, ?_, ?_, ?_, ?_, ?_⟩ <;> decide
/-- Q2 (busy), Q6 (length 0), Q7 (the draw), Q1 (taken). -/
theorem witness_SrWriteSpiOutcome :
    (both.periph 1 = some ⟨true, 0x0200, 2, 0⟩ ∧ both.draws.spiSendErr[(1#2).toNat - 1]? = some 0) ∧
    (base.periph 1 = some ⟨false, 0, 0, 0⟩ ∧ base.draws.spiSendErr[(1#2).toNat - 1]? = some 0) ∧
    (base.periph 3 = some ⟨false, 0, 0, 0⟩ ∧
      ({ base with draws := { Draws.accept with spiSendErr := #v[0, 0, 5] } } : State).draws.spiSendErr[(3#2).toNat - 1]? =
        some 5) := by decide
/-- Handle 0 and an idle peripheral; a busy one with two bytes left, and with its last. -/
theorem witness_SpiByteOutcome :
    both.periph 0 = none ∧ both.periph 2 = some ⟨false, 0, 0, 0⟩ ∧ (sending 2 0).periph 1 = some ⟨true, 0x0200, 2, 0⟩ ∧
    (sending 2 1).periph 1 = some ⟨true, 0x0200, 2, 1⟩ ∧ (1 : Len) + 1#8 = 2 ∧ (sending 255 254).periph 1 =
      some ⟨true, 0x0200, 255, 254⟩ := by decide
theorem witness_SpiFailOutcome :
    both.periph 0 = none ∧ both.periph 2 = some ⟨false, 0, 0, 0⟩ ∧ both.periph 1 = some ⟨true, 0x0200, 2, 0⟩ := by decide
theorem witness_TransferSendsItsBufferThenLatches :
    ((sending 2 0).periph 1 = some ⟨true, 0x0200, 2, 0⟩ ∧ (0 : Len).toNat < (2 : Len).toNat) ∧
    ((sending 255 254).periph 1 = some ⟨true, 0x0200, 255, 254⟩ ∧ (254 : Len).toNat < (255 : Len).toNat) := by decide
/-- A rising shift clock, a rising storage clock, a drive low and a storage clock that is already high. -/
theorem witness_ObserverFollowsRisingEdges :
    (⟨.gpio 5 6 7, 2, 0xABCD, 0x1234, false⟩ : Cascade).tap = .gpio 5 6 7 ∧ (5 : LineId) ≠ 6 ∧
    drivenLevel [(5, some false), (7, some true)] 5 = some false ∧ drivenLevel [(5, some false), (7, some true)] 7 = some true ∧
    drivenLevel [(6, some false)] 6 = some false ∧ drivenLevel [(6, some true)] 6 ≠ some false := by decide
theorem witness_GpioWriteReachesTheOutputs :
    both.cascades[1]? = some ⟨.gpio 5 6 7, 2, 0xABCD, 0x1234, false⟩ ∧ both.sharesLine ⟨.gpio 5 6 7, 2, 0xABCD, 0x1234, false⟩ = false := by decide
theorem witness_SpiTransferReachesTheOutputs :
    both.periph 1 = some ⟨true, 0x0200, 2, 0⟩ ∧ both.registry.find? (fun e => e.h == 1) = some ⟨1, 0x00160006⟩ ∧
    (0x00160006#32).extractLsb' 2 2 = 1#2 ∧ both.cascades[0]? = some ⟨.spi 1 0x16, 2, 0x0000, 0x0000, false⟩ ∧
    (0x00160006#32).extractLsb' 16 8 = 0x16#8 ∧ both.sharesLine ⟨.spi 1 0x16, 2, 0x0000, 0x0000, false⟩ = false := by decide
theorem witness_SegWritePlacesBothDigits :
    both.cascades[1]? = some ⟨.gpio 5 6 7, 2, 0xABCD, 0x1234, false⟩ ∧ (⟨.gpio 5 6 7, 2, 0xABCD, 0x1234, false⟩ : Cascade).chips = 2 ∧
    both.sharesLine ⟨.gpio 5 6 7, 2, 0xABCD, 0x1234, false⟩ = false := by decide
/-- One cascade that shares a line and holds any value, one that shares none. -/
def sharing : State :=
  { both with
    cascades := [⟨.gpio 8 9 10, 1, Config.sharedChain _ 1 0, Config.sharedOutputs _ 1 0, true⟩, ⟨.gpio 5 6 7, 2, 0xABCD, 0x1234, false⟩] }
theorem witness_StepKeepsSharedFree : (given 0x131 sharing).SharedInv ∧ (given 0x131 sharing).cascades ≠ [] ∧
    ∃ t, step (given 0x131 sharing) = .next t := by
  refine ⟨?_, by simp [given, sharing], _, rfl⟩
  intro k c hc hs
  match k, hc with
  | 0, hc => cases hc; exact ⟨1, rfl, rfl⟩
  | 1, hc => cases hc; exact absurd hs (by decide)
  | k + 2, hc => simp [given, sharing] at hc
theorem witness_ResetMeetsSharedFree :
    launched.cascades ≠ [] ∧ ∀ c ∈ launched.cascades, c.shared = false ∧ c.distinct = true ∧
      ∀ d ∈ launched.cascades, d.tap = c.tap ∧ d.chips = c.chips ∨ meets d.tap.lines c.tap.lines = false := by decide
/-- A cascade that shares a line already, and one whose lines come to be shared by each kind of operation. -/
theorem witness_SharingBeginsAndStays :
    (∃ c, sharing.cascades[0]? = some c ∧ sharing.sharesLine c = true) ∧
    both.cascades[1]? = some ⟨.gpio 5 6 7, 2, 0xABCD, 0x1234, false⟩ ∧
    (instOf 0x09080501 = some (.gpio 5 8 9) ∧ meets (Inst.lines (.gpio 5 8 9)) [5, 6, 7] = true ∧
      Cascade.shows ⟨.gpio 5 6 7, 2, 0xABCD, 0x1234, false⟩ (.gpio 5 8 9) = false) ∧
    (meets [8, 9, 7] [5, 6, 7] = true ∧ Tap.gpio 5 6 7 ≠ .gpio 8 9 7) ∧
    (∃ t, exec (.srCreateSpi 2 6) both = .next t ∧ both.spiRegCount ≠ t.spiRegCount ∧ meets [6] [5, 6, 7] = true) ∧
    (∃ t, exec (.dbRegister 0 0x0080 false 0) { both with extiImr := 0x0080 } = .next t ∧ both.dbCount ≠ t.dbCount ∧
      lineOf 0 0x0080 ∈ [(5 : LineId), 6, 7]) :=
  ⟨⟨_, rfl, rfl⟩, by decide, by decide, by decide, ⟨_, rfl, by decide⟩, ⟨_, rfl, by decide⟩⟩
/-- A settle with a callback, and an operation that appends nothing. -/
theorem witness_UnsharedCascadesChangeByEventsOnly :
    (∃ t, exec .dbSettle both = .next t ∧ (t.outTrace.drop both.outTrace.length).all Event.isCallback = true ∧
      t.outTrace ≠ both.outTrace) ∧
    (∃ t, exec (.envStore 0 1) both = .next t ∧ t.outTrace = both.outTrace) := ⟨⟨_, rfl, by decide⟩, ⟨_, rfl, by decide⟩⟩
/-- A step that appends each kind of event. -/
theorem witness_TraceGrowsByTheNamedOperations :
    (∃ t, exec .timTick (armed true 49) = .next t ∧ t.outTrace = [.cb 0x10 true]) ∧
    (∃ t, exec (.srWrite 0x00000006 0x0100 1) base = .next t ∧ t.outTrace = [.w 0 false, .send 1 0x0100 1]) ∧
    (∃ t, exec (.spiByte 1) (sending 2 0) = .next t ∧ t.outTrace = [.tx 1 0xA5]) :=
  ⟨⟨_, rfl, by decide⟩, ⟨_, rfl, by decide⟩, ⟨_, rfl, by decide⟩⟩
theorem witness_ConfigurationIsNeverWritten : ∃ t, exec (.srCreateSpi 1 0x16) base = .next t ∧ t.spiRegCount = 1 := ⟨_, rfl, by decide⟩
theorem witness_OnlyTheEnvironmentWritesMemoryAndInputs :
    (∃ t, exec (.envStore 0xFFFF 0x81) base = .next t ∧ memRead t.mem 0xFFFF = 0x81) ∧
    (∃ t, exec (.envLevel 0xFF true) base = .next t ∧ gpioRead t.gpioIn 0xFF = true) := ⟨⟨_, rfl, by decide⟩, ⟨_, rfl, by decide⟩⟩
theorem witness_UnitsShareNoState :
    (ofDebounceUnit .dbSettle = true ∧ ∃ t, exec .dbSettle both = .next t ∧ t.timRun = false) ∧
    (ofShiftUnit (.spiByte 1) = true ∧ ∃ t, exec (.spiByte 1) both = .next t ∧ t.outTrace = [.w 0x16 false, .tx 1 0xA5]) :=
  ⟨⟨rfl, _, rfl, by decide⟩, ⟨rfl, _, rfl, by decide⟩⟩
theorem witness_StepsOfTheTwoUnitsCommute : ofDebounceUnit (.dbEdge 0x0001) = true ∧ ofShiftUnit (.srComplete 1) = true := by decide
/-- A failure that touches nothing (CS2), and one that has driven the storage clock (Q2). -/
theorem witness_FailuresChangeNothing :
    (∃ t, exec (.srCreateSpi 1 0x16) { base with spiCfg := #v[0x43, 3, 3] } = .next t ∧ t.result = some 2#64 ∧
      resultStatus 2#64 ≠ 0x00#8) ∧
    (∃ t, exec (.srWrite 0x00160006 0x0300 1) both = .next t ∧ t.result = some 0x0000000200000004#64 ∧
      resultStatus 0x0000000200000004#64 ≠ 0x00#8 ∧ t.outTrace = [.w 0x16 false, .w 0x16 false]) :=
  ⟨⟨_, rfl, by decide⟩, ⟨_, rfl, by decide⟩⟩
theorem witness_ResultsByOperation :
    (WellFormed .timTick ∧ returnsResult .timTick = false ∧ ∃ t, exec .timTick both = .next t) ∧
    (WellFormed (.dbInit 1 0) ∧ returnsResult (.dbInit 1 0) = true ∧ ∃ t, exec (.dbInit 1 0) base = .next t ∧
      t.result = some 0x0000000100000004) := ⟨⟨rfl, rfl, _, rfl⟩, ⟨rfl, rfl, _, rfl, by decide⟩⟩
/-- The settle of T2: an initialised block, a registered line whose level changes, and a registry that stays. -/
theorem witness_RegistrationsStay : both.dbInit = true ∧ both.lines[0]? = some ⟨0, 0x0001, false, 0x10⟩ ∧
    ∃ t, exec .dbSettle both = .next t ∧ t.lines[0]? = some ⟨0, 0x0001, true, 0x10⟩ ∧ t.registry = [⟨1, 0x00160006⟩] :=
  ⟨by decide, by decide, _, rfl, by decide, by decide⟩
theorem witness_ResultAndStreamAreNotRead : ∃ t, exec (.dbEdge 0x0001) both = .next t ∧ t.timCnt = 0 := ⟨_, rfl, by decide⟩
/-- Draws that differ in `tim_cfg_err`, under an operation that asks the SPI collaborator. -/
theorem witness_OnlyTwoOperationsReadTheDraws :
    (∃ t, exec (.srWrite 0x00000006 0x0100 1) base = .next t) ∧
    ({ Draws.accept with timCfgErr := 7 } : Draws).spiSendErr = base.draws.spiSendErr ∧
    ({ Draws.accept with timCfgErr := 7 } : Draws) ≠ base.draws := ⟨⟨_, rfl⟩, by decide, by decide⟩

end Sys2Proof.Tests
end

section
/-! The scope of the block (00_scope.md): the step of a legal word, what each operation can do, where the events of the trace come from,
and the two units apart. -/

namespace Sys2Proof.Machine

/-! ## The step of a legal word (R5, R49) -/

theorem takeWord_of_stim_cons {s : State} {inp : Input} {rest : List Input} (hs : s.stim = inp :: rest) :
    s.takeWord = some (inp.word, { s with stim := rest, draws := inp.draws }) := by
  unfold State.takeWord; rw [hs]

theorem step_of_takeWord {s t : State} {w : Word64} {i : Instr} (ht : s.takeWord = some (w, t)) (hd : decode w = .ok i) :
    step s = exec i t := by
  unfold step; rw [ht]; dsimp only; rw [hd]

/-- Settles O6: the word is taken off the stream, then decoded. -/
theorem stepRunsDecodedOperation : Obligations.StepRunsDecodedOperation :=
  fun _ _ _ _ hs hd => step_of_takeWord (takeWord_of_stim_cons hs) hd

/-! ## What each operation can do

One inversion lemma per operation with branches: the next state is one of these, written with the updates of the state. -/

section Inversion

variable {s t : State}

theorem exec_dbInit_inv {tim : TimerHandle} {ms : Millis} (h : exec (.dbInit tim ms) s = .next t) :
    (∃ st v, t = s.ret st v) ∨
    t = State.ret { s with dbTim := tim, dbPeriod := periodOf ms, timRun := false, timCnt := 0#20, dbInit := true } .ok 0#32 := by
  obtain rfl := Host.Outcome.next.inj h
  split_ifs
  iterate 4 exact .inl ⟨_, _, rfl⟩
  exact .inr rfl

theorem exec_dbRegister_inv {port : PortNum} {pin : PinMask} {level : Level} {cb : CallbackId}
    (h : exec (.dbRegister port pin level cb) s = .next t) :
    (∃ st v, t = s.ret st v) ∨
    t = (s.appendLine { port := port, pin := pin, lastState := level, cb := cb }).redrawShared.ret .ok
      (lineHandle s.dbCount.toNat) := by
  obtain rfl := Host.Outcome.next.inj h
  split_ifs
  iterate 3 exact .inl ⟨_, _, rfl⟩
  exact .inr rfl

theorem exec_dbEdge_inv {mask : PinMask} (h : exec (.dbEdge mask) s = .next t) :
    (∃ st v, t = s.ret st v) ∨ t = ((s.timerStop.timerCount 0#20).timerStart).ret .ok 0#32 := by
  obtain rfl := Host.Outcome.next.inj h
  split_ifs
  iterate 2 exact .inl ⟨_, _, rfl⟩
  exact .inr rfl

theorem exec_timTick_inv (h : exec .timTick s = .next t) :
    t = s.done ∨ (∃ n, t = (s.timerCount n).done) ∨ t = (s.timerCount 0#20).performSettle.done := by
  obtain rfl := Host.Outcome.next.inj h
  split_ifs
  · exact .inr (.inr rfl)
  · exact .inr (.inl ⟨_, rfl⟩)
  · exact .inl rfl

theorem exec_srCreateSpi_inv {spi : SpiHandle} {rclk : LineId} (h : exec (.srCreateSpi spi rclk) s = .next t) :
    (∃ st v, t = s.ret st v) ∨
    t = ((s.appendSpiReg { h := spi, inst := Inst.desc (.spiSw spi rclk) }).noteInst (.spiSw spi rclk)).ret .ok
      (Inst.desc (.spiSw spi rclk)) := by
  obtain rfl := Host.Outcome.next.inj h
  split_ifs
  iterate 3 exact .inl ⟨_, _, rfl⟩
  exact .inr rfl

/-- The state after `SpiSend` (R156): as it was, or the transfer is taken and announced. -/
theorem spiSend_snd (s : State) (h : SpiHandle) (addr : Addr) (len : Len) :
    (s.spiSend h addr len).2 = s ∨ ∃ p, (s.spiSend h addr len).2 = (s.setPeriph h p).sendEvent h addr len := by
  cases hp : s.periph h with
  | none => left; unfold State.spiSend; rw [hp]
  | some p =>
    rw [spiSend_cases s h addr len p hp]
    split_ifs
    iterate 3 exact .inl rfl
    exact .inr ⟨_, rfl⟩

theorem exec_srWrite_inv {inst : Desc} {addr : Addr} {len : Len} (h : exec (.srWrite inst addr len) s = .next t) :
    t = s.ret .invalidArg 0#32 ∨
    (∃ srclk rclk ser, instOf inst = some (.gpio srclk rclk ser) ∧
      t = (((State.clockBytes srclk ser len.toNat addr (s.gpioWrite rclk false)).gpioWrite rclk true).noteInst
        (.gpio srclk rclk ser)).ret .ok 0#32) ∨
    (∃ spi rclk st v, instOf inst = some (.spiSw spi rclk) ∧
      t = (((s.gpioWrite rclk false).noteInst (.spiSw spi rclk)).spiSend spi addr len).2.ret st v) := by
  obtain rfl := Host.Outcome.next.inj h
  cases hi : instOf inst with
  | none => exact .inl rfl
  | some j =>
    cases j with
    | gpio srclk rclk ser => exact .inr (.inl ⟨_, _, _, rfl, rfl⟩)
    | spiSw spi rclk =>
      refine .inr (.inr ⟨spi, rclk, ?_⟩)
      dsimp only
      split_ifs
      · exact ⟨_, _, rfl, rfl⟩
      · exact ⟨_, _, rfl, rfl⟩

theorem exec_spiByte_inv {spi : SpiHandle} (h : exec (.spiByte spi) s = .next t) :
    t = s.done ∨
    ∃ b p, t = ((s.transmit spi b).setPeriph spi p).done ∨
      t = (((s.transmit spi b).setPeriph spi p).performComplete spi).done := by
  obtain rfl := Host.Outcome.next.inj h
  cases hp : s.periph spi with
  | none => exact .inl rfl
  | some p =>
    dsimp only
    split_ifs
    · exact .inl rfl
    · exact .inr ⟨_, _, .inr rfl⟩
    · exact .inr ⟨_, _, .inl rfl⟩

theorem exec_spiFail_inv {spi : SpiHandle} (h : exec (.spiFail spi) s = .next t) :
    t = s.done ∨ ∃ p, t = (s.setPeriph spi p).done := by
  obtain rfl := Host.Outcome.next.inj h
  cases hp : s.periph spi with
  | none => exact .inl rfl
  | some p =>
    dsimp only
    split_ifs
    · exact .inl rfl
    · exact .inr ⟨_, rfl⟩

end Inversion

/-! ## Events appended to the trace (R11, R43) -/

/-- The trace of `t` is that of `s` with events appended that all satisfy `P`. -/
def Appends (P : Event → Prop) (s t : State) : Prop := ∃ es, t.outTrace = s.outTrace ++ es ∧ ∀ e ∈ es, P e

section Appends

variable {P : Event → Prop} {s t u : State}

theorem Appends.of_eq (h : t.outTrace = s.outTrace) : Appends P s t := ⟨[], by simpa using h, by simp⟩

theorem Appends.one {e : Event} (h : t.outTrace = s.outTrace ++ [e]) (he : P e) : Appends P s t := ⟨[e], h, by simpa using he⟩

theorem Appends.trans (hst : Appends P s t) (htu : Appends P t u) : Appends P s u := by
  obtain ⟨es, ht, hes⟩ := hst
  obtain ⟨fs, hu, hfs⟩ := htu
  refine ⟨es ++ fs, by rw [hu, ht, List.append_assoc], fun e he => ?_⟩
  exact (List.mem_append.mp he).elim (hes e) (hfs e)

/-- A settle scan finds nothing but callbacks to invoke (R120). -/
theorem isCallback_of_mem_settleEvents {g : Sparse Level} {l : List LineEntry} {e : Event} (he : e ∈ settleEvents g l) :
    e.isCallback = true := by
  induction l with
  | nil => cases he
  | cons a l ih =>
    unfold settleEvents at he
    split_ifs at he with hch
    · obtain rfl | he := List.mem_cons.mp he
      · rfl
      · exact ih he
    · exact ih he

theorem appends_performSettle (h : ∀ id v, P (.cb id v)) (s : State) : Appends P s s.performSettle := by
  refine ⟨settleEvents s.gpioIn s.lines, by rw [performSettle_eq], fun e he => ?_⟩
  have hcb := isCallback_of_mem_settleEvents he
  cases e with
  | cb id v => exact h id v
  | w | send | tx => cases hcb

theorem appends_performComplete (h : ∀ ln v, P (.w ln v)) (s : State) (spi : SpiHandle) :
    Appends P s (s.performComplete spi) := by
  cases ho : s.owner spi with
  | none => exact .of_eq (by rw [performComplete_none s spi ho])
  | some e =>
    rw [performComplete_some s spi e ho]
    exact ⟨[.w (descRclk e.inst) false, .w (descRclk e.inst) true], by simp, by simp [h]⟩

theorem appends_clockBytes (h : ∀ ln v, P (.w ln v)) (srclk ser : LineId) (n : Nat) (a : Addr) (s : State) :
    Appends P s (State.clockBytes srclk ser n a s) := by
  refine ⟨_, clockBytes_outTrace srclk ser n a s, fun e he => ?_⟩
  simp only [List.mem_flatMap, byteDrives, bitDrives, List.mem_cons, List.not_mem_nil, or_false] at he
  obtain ⟨b, -, k, -, rfl | rfl | rfl⟩ := he <;> exact h _ _

theorem appends_spiSend {spi : SpiHandle} {addr : Addr} {len : Len} (h : P (.send spi addr len)) (s : State) :
    Appends P s (s.spiSend spi addr len).2 := by
  obtain hs | ⟨p, hs⟩ := spiSend_snd s spi addr len
  · exact .of_eq (by rw [hs])
  · exact .one (by rw [hs]; simp) h

end Appends

/-- The operations that may append an event, by its kind (R11). -/
def Event.MayComeFrom (i : Instr) : Event → Prop
  | .cb _ _ => i = .dbSettle ∨ i = .timTick
  | .send _ a n => ∃ d, i = .srWrite d a n
  | .tx h _ => i = .spiByte h
  | .w _ _ => (∃ d a n, i = .srWrite d a n) ∨ ∃ h, i = .srComplete h ∨ i = .spiByte h

/-- Every operation only appends to the trace, and only events that may come from it. -/
theorem exec_appends {i : Instr} {s t : State} (h : exec i s = .next t) : Appends (Event.MayComeFrom i) s t := by
  cases i with
  | dbInit tim ms => obtain ⟨st, v, rfl⟩ | rfl := exec_dbInit_inv h <;> exact .of_eq rfl
  | dbRegister port pin level cb => obtain ⟨st, v, rfl⟩ | rfl := exec_dbRegister_inv h <;> exact .of_eq rfl
  | dbEdge mask => obtain ⟨st, v, rfl⟩ | rfl := exec_dbEdge_inv h <;> exact .of_eq rfl
  | dbSettle =>
    obtain rfl := Host.Outcome.next.inj h
    exact appends_performSettle (fun _ _ => .inl rfl) s
  | timTick =>
    obtain rfl | ⟨n, rfl⟩ | rfl := exec_timTick_inv h
    · exact .of_eq rfl
    · exact .of_eq rfl
    · exact appends_performSettle (fun _ _ => .inr rfl) (s.timerCount 0#20)
  | srCreateGpio srclk rclk ser =>
    obtain rfl := Host.Outcome.next.inj h
    exact .of_eq rfl
  | srCreateSpi spi rclk => obtain ⟨st, v, rfl⟩ | rfl := exec_srCreateSpi_inv h <;> exact .of_eq rfl
  | srWrite inst addr len =>
    have hw : ∀ ln v, Event.MayComeFrom (.srWrite inst addr len) (.w ln v) := fun _ _ => .inl ⟨_, _, _, rfl⟩
    obtain rfl | ⟨srclk, rclk, ser, -, rfl⟩ | ⟨spi, rclk, st, v, -, rfl⟩ := exec_srWrite_inv h
    · exact .of_eq rfl
    · have hopen : Appends (Event.MayComeFrom (.srWrite inst addr len)) s (s.gpioWrite rclk false) := .one rfl (hw _ _)
      exact (hopen.trans (appends_clockBytes hw srclk ser len.toNat addr _)).trans (.one rfl (hw rclk true))
    · have hopen : Appends (Event.MayComeFrom (.srWrite inst addr len)) s
          ((s.gpioWrite rclk false).noteInst (.spiSw spi rclk)) := .one rfl (hw _ _)
      exact hopen.trans (appends_spiSend ⟨_, rfl⟩ _)
  | srComplete spi =>
    obtain rfl := Host.Outcome.next.inj h
    exact appends_performComplete (fun _ _ => .inr ⟨_, .inl rfl⟩) s spi
  | spiByte spi =>
    have hsent (b : Byte) (p : SpiPeriph) :
        Appends (Event.MayComeFrom (.spiByte spi)) s ((s.transmit spi b).setPeriph spi p) := .one (e := .tx spi b) (by simp) rfl
    obtain rfl | ⟨b, p, rfl | rfl⟩ := exec_spiByte_inv h
    · exact .of_eq rfl
    · exact hsent b p
    · exact (hsent b p).trans (appends_performComplete (fun _ _ => .inr ⟨_, .inr rfl⟩) _ spi)
  | spiFail spi => obtain rfl | ⟨p, rfl⟩ := exec_spiFail_inv h <;> exact .of_eq (by simp)
  | envLevel line level =>
    obtain rfl := Host.Outcome.next.inj h
    exact .of_eq rfl
  | envStore addr val =>
    obtain rfl := Host.Outcome.next.inj h
    exact .of_eq rfl

/-- Settles O45: the four clauses are `Event.MayComeFrom` at the four kinds of event. -/
theorem traceGrowsByTheNamedOperations : Obligations.TraceGrowsByTheNamedOperations := by
  intro i s t h
  obtain ⟨es, ht, hes⟩ := exec_appends h
  exact ⟨es, ht, fun _ _ => hes _, fun _ _ _ => hes _, fun _ _ => hes _, fun _ _ => hes _⟩

/-! ## The projections of the trace (R11, R236) -/

theorem periphEvents_append (h : SpiHandle) (es fs : List Event) :
    periphEvents h (es ++ fs) = periphEvents h es ++ periphEvents h fs := by
  induction es with
  | nil => rfl
  | cons e es ih =>
    cases e with
    | send | tx => simp only [List.cons_append, periphEvents, ih]; split <;> rfl
    | w | cb => exact ih

theorem callbackLevels_append (id : CallbackId) (es fs : List Event) :
    callbackLevels id (es ++ fs) = callbackLevels id es ++ callbackLevels id fs := by
  induction es with
  | nil => rfl
  | cons e es ih =>
    cases e with
    | cb => simp only [List.cons_append, callbackLevels, ih]; split <;> rfl
    | w | send | tx => exact ih

/-- Callbacks are no events of a peripheral. -/
theorem periphEvents_of_callbacks (h : SpiHandle) {es : List Event} (hes : ∀ e ∈ es, e.isCallback = true) :
    periphEvents h es = [] := by
  induction es with
  | nil => rfl
  | cons e es ih =>
    obtain ⟨he, hrest⟩ := List.forall_mem_cons.mp hes
    cases e with
    | cb id v => exact ih hrest
    | w | send | tx => cases he

/-- Without callbacks no callback is invoked. -/
theorem callbackLevels_of_no_callback (id : CallbackId) {es : List Event} (hes : ∀ e ∈ es, e.isCallback = false) :
    callbackLevels id es = [] := by
  induction es with
  | nil => rfl
  | cons e es ih =>
    obtain ⟨he, hrest⟩ := List.forall_mem_cons.mp hes
    cases e with
    | cb id v => cases he
    | w | send | tx => exact ih hrest

/-- The events of the Debounce unit are callbacks (R110). -/
theorem Event.MayComeFrom.isCallback {i : Instr} {e : Event} (he : e.MayComeFrom i) (hi : ofDebounceUnit i = true) :
    e.isCallback = true := by
  cases e with
  | cb id v => rfl
  | send h a n => obtain ⟨d, rfl⟩ := he; cases hi
  | tx h b => obtain rfl := he; cases hi
  | w ln v => obtain ⟨d, a, n, rfl⟩ | ⟨h, rfl | rfl⟩ := he <;> cases hi

/-- The events of the Shift-register unit are no callbacks (R140). -/
theorem Event.MayComeFrom.not_isCallback {i : Instr} {e : Event} (he : e.MayComeFrom i) (hi : ofShiftUnit i = true) :
    e.isCallback = false := by
  cases e with
  | cb id v => obtain rfl | rfl := he <;> cases hi
  | w | send | tx => rfl

section Units

variable {i : Instr} {s t : State}

theorem periphEvents_of_debounce (hi : ofDebounceUnit i = true) (h : exec i s = .next t) (spi : SpiHandle) :
    periphEvents spi t.outTrace = periphEvents spi s.outTrace := by
  obtain ⟨es, ht, hes⟩ := exec_appends h
  rw [ht, periphEvents_append, periphEvents_of_callbacks spi fun e he => (hes e he).isCallback hi, List.append_nil]

theorem callbackLevels_of_shift (hi : ofShiftUnit i = true) (h : exec i s = .next t) (id : CallbackId) :
    callbackLevels id t.outTrace = callbackLevels id s.outTrace := by
  obtain ⟨es, ht, hes⟩ := exec_appends h
  rw [ht, callbackLevels_append, callbackLevels_of_no_callback id fun e he => (hes e he).not_isCallback hi, List.append_nil]

/-! ## The frame of each unit (R1, R110, R140) -/

/-- All that an operation of the Debounce unit can change. -/
theorem exec_debounce_frame (hi : ofDebounceUnit i = true) (h : exec i s = .next t) :
    t = { s with
      dbInit := t.dbInit, dbTim := t.dbTim, dbPeriod := t.dbPeriod, timRun := t.timRun, timCnt := t.timCnt,
      dbCount := t.dbCount, dbMask := t.dbMask, line := t.line, outTrace := t.outTrace, cascades := t.cascades,
      result := t.result } := by
  cases i with
  | dbInit tim ms => obtain ⟨st, v, rfl⟩ | rfl := exec_dbInit_inv h <;> rfl
  | dbRegister port pin level cb => obtain ⟨st, v, rfl⟩ | rfl := exec_dbRegister_inv h <;> rfl
  | dbEdge mask => obtain ⟨st, v, rfl⟩ | rfl := exec_dbEdge_inv h <;> rfl
  | dbSettle =>
    obtain rfl := Host.Outcome.next.inj h
    apply State.ext <;> simp
  | timTick =>
    obtain rfl | ⟨n, rfl⟩ | rfl := exec_timTick_inv h
    · rfl
    · rfl
    · apply State.ext <;> simp
  | srCreateGpio | srCreateSpi | srWrite | srComplete | spiByte | spiFail | envLevel | envStore => cases hi

/-- All that an operation of the Shift-register unit can change. -/
theorem exec_shift_frame (hi : ofShiftUnit i = true) (h : exec i s = .next t) :
    t = { s with
      spiRegCount := t.spiRegCount, spiReg := t.spiReg, spi := t.spi, gpioOut := t.gpioOut, outTrace := t.outTrace,
      cascades := t.cascades, result := t.result } := by
  cases i with
  | srCreateGpio srclk rclk ser =>
    obtain rfl := Host.Outcome.next.inj h
    rfl
  | srCreateSpi spi rclk => obtain ⟨st, v, rfl⟩ | rfl := exec_srCreateSpi_inv h <;> rfl
  | srWrite inst addr len =>
    obtain rfl | ⟨srclk, rclk, ser, -, rfl⟩ | ⟨spi, rclk, st, v, -, rfl⟩ := exec_srWrite_inv h
    · rfl
    · apply State.ext <;> simp
    · obtain hs | ⟨p, hs⟩ := spiSend_snd ((s.gpioWrite rclk false).noteInst (.spiSw spi rclk)) spi addr len
      · rw [hs]; rfl
      · rw [hs]; apply State.ext <;> simp
  | srComplete spi =>
    obtain rfl := Host.Outcome.next.inj h
    apply State.ext <;> simp
  | spiByte spi =>
    obtain rfl | ⟨b, p, rfl | rfl⟩ := exec_spiByte_inv h
    · rfl
    · apply State.ext <;> simp
    · apply State.ext <;> simp
  | spiFail spi =>
    obtain rfl | ⟨p, rfl⟩ := exec_spiFail_inv h
    · rfl
    · apply State.ext <;> simp
  | dbInit | dbRegister | dbEdge | dbSettle | timTick | envLevel | envStore => cases hi

/-! ## The observed cascades under a Debounce operation (R232, U11) -/

theorem KeepsUnshared.of_eq (h : t.cascades = s.cascades) : KeepsUnshared s t :=
  fun _ c hc => ⟨c, by rw [h, hc], rfl, rfl, fun _ => rfl⟩

theorem redrawShared_tap_chips (s : State) :
    s.redrawShared.cascades.map (fun c => (c.tap, c.chips)) = s.cascades.map (fun c => (c.tap, c.chips)) := by
  apply List.ext_getElem?
  intro k
  rw [List.getElem?_map, List.getElem?_map, redrawShared_getElem?, Option.map_map]
  congr 1
  funext c
  dsimp only [Function.comp]
  split <;> rfl

/-- A cascade shares a line after the redraw exactly when it did before: the redraw changes nothing that sharing depends on. -/
theorem redrawShared_sharesLine {c d : Cascade} (s : State) (hd : d.key = c.key) :
    s.redrawShared.sharesLine d = s.sharesLine c :=
  sharesLine_congr rfl rfl (redrawShared_tap_chips s) hd

theorem keepsUnshared_redrawShared (s : State) : KeepsUnshared s s.redrawShared := by
  intro k c hc
  by_cases hsh : s.sharesLine c = true
  · refine ⟨c.anyValue s.outTrace.length k, by rw [redrawShared_getElem?, hc, Option.map_some, if_pos hsh], rfl, rfl, fun hno => ?_⟩
    rw [redrawShared_sharesLine s (Cascade.anyValue_key _ k c), hsh] at hno
    cases hno
  · exact ⟨c, by rw [redrawShared_getElem?, hc, Option.map_some, if_neg hsh], rfl, rfl, fun _ => rfl⟩

/-- Of the Debounce operations only a registration touches the observed cascades, and it only redraws those that share a line. -/
theorem keepsUnshared_of_debounce (hi : ofDebounceUnit i = true) (h : exec i s = .next t) : KeepsUnshared s t := by
  cases i with
  | dbInit tim ms => obtain ⟨st, v, rfl⟩ | rfl := exec_dbInit_inv h <;> exact .of_eq rfl
  | dbRegister port pin level cb =>
    obtain ⟨st, v, rfl⟩ | rfl := exec_dbRegister_inv h
    · exact .of_eq rfl
    · exact keepsUnshared_redrawShared (s.appendLine _)
  | dbEdge mask => obtain ⟨st, v, rfl⟩ | rfl := exec_dbEdge_inv h <;> exact .of_eq rfl
  | dbSettle =>
    obtain rfl := Host.Outcome.next.inj h
    exact .of_eq (State.performSettle_cascades s)
  | timTick =>
    obtain rfl | ⟨n, rfl⟩ | rfl := exec_timTick_inv h
    · exact .of_eq rfl
    · exact .of_eq rfl
    · exact .of_eq (State.performSettle_cascades (s.timerCount 0#20))
  | srCreateGpio | srCreateSpi | srWrite | srComplete | spiByte | spiFail | envLevel | envStore => cases hi

theorem sameShift_of_debounce (hi : ofDebounceUnit i = true) (h : exec i s = .next t) : SameShift s t := by
  constructor <;> rw [exec_debounce_frame hi h]

theorem sameDebounce_of_shift (hi : ofShiftUnit i = true) (h : exec i s = .next t) : SameDebounce s t := by
  constructor <;> rw [exec_shift_frame hi h]

end Units

/-- Settles O48: each unit's frame, and its events, which the other unit's projections do not see. -/
theorem unitsShareNoState : Obligations.UnitsShareNoState := by
  intro i s t h
  refine ⟨fun hi => ⟨sameShift_of_debounce hi h, ?gpioOut, keepsUnshared_of_debounce hi h, ?gpioIn, ?mem,
      periphEvents_of_debounce hi h⟩,
    fun hi => ⟨sameDebounce_of_shift hi h, ?gpioIn', ?mem', callbackLevels_of_shift hi h⟩⟩
  case gpioOut | gpioIn | mem => rw [exec_debounce_frame hi h]
  case gpioIn' | mem' => rw [exec_shift_frame hi h]

end Sys2Proof.Machine
end

section
/-! The state of the block (10_state.md): the invariants that every step keeps, what the operations do to the registered lines and to the
driven levels, what they leave as it was, and which of their inputs they read. -/

namespace Sys2Proof.Machine

/-! ## Every step through its operation (R5) -/

/-- A property that the stream, the draws and the result have no part in is kept by every step if every operation keeps it. -/
theorem step_keeps {P : State → Prop} (ports : ∀ s is d r, P s → P { s with stim := is, draws := d, result := r })
    (ops : ∀ i s t, exec i s = .next t → P s → P t) {s t : State} (h : step s = .next t) (hs : P s) : P t := by
  cases hstim : s.stim with
  | nil =>
    unfold step State.takeWord at h
    rw [hstim] at h
    cases h
    exact hs
  | cons inp rest =>
    cases hd : decode inp.word with
    | ok i =>
      rw [stepRunsDecodedOperation s inp rest i hstim hd] at h
      exact ops i _ t h (ports s rest inp.draws s.result hs)
    | error e =>
      unfold step at h
      rw [takeWord_of_stim_cons hstim] at h
      dsimp only at h
      rw [hd] at h
      cases h
      exact ports s rest inp.draws _ hs

/-- Every operation is of one of the units or a move of the environment (R91). -/
theorem unit_cases (i : Instr) :
    ofDebounceUnit i = true ∨ ofShiftUnit i = true ∨ (∃ ln v, i = .envLevel ln v) ∨ ∃ a v, i = .envStore a v := by
  cases i with
  | dbInit | dbRegister | dbEdge | dbSettle | timTick => exact .inl rfl
  | srCreateGpio | srCreateSpi | srWrite | srComplete | spiByte | spiFail => exact .inr (.inl rfl)
  | envLevel ln v => exact .inr (.inr (.inl ⟨ln, v, rfl⟩))
  | envStore a v => exact .inr (.inr (.inr ⟨a, v, rfl⟩))

/-! ## What each operation does, with the tests it passed

The inversion lemmas above say what the next state can be; these say as well under which tests. -/

section Guards

variable {s t : State}

theorem exec_dbInit_cases {tim : TimerHandle} {ms : Millis} (h : exec (.dbInit tim ms) s = .next t) :
    (∃ st v, t = s.ret st v) ∨
    (s.dbInit = false ∧ tim ≠ 0#2 ∧ ms ≠ 0#16 ∧
      t = State.ret { s with dbTim := tim, dbPeriod := periodOf ms, timRun := false, timCnt := 0#20, dbInit := true } .ok 0#32) := by
  obtain rfl := Host.Outcome.next.inj h
  split_ifs with hinit htim hms
  iterate 4 exact .inl ⟨_, _, rfl⟩
  exact .inr ⟨Bool.eq_false_of_not_eq_true hinit, htim, hms, rfl⟩

theorem exec_dbRegister_cases {port : PortNum} {pin : PinMask} {level : Level} {cb : CallbackId}
    (h : exec (.dbRegister port pin level cb) s = .next t) :
    (∃ st v, t = s.ret st v) ∨
    (popcount pin = 1 ∧ s.dbCount.toNat < Config.dbCapacity ∧
      t = (s.appendLine { port := port, pin := pin, lastState := level, cb := cb }).redrawShared.ret .ok
        (lineHandle s.dbCount.toNat)) := by
  obtain rfl := Host.Outcome.next.inj h
  split_ifs with hpin hfull
  iterate 3 exact .inl ⟨_, _, rfl⟩
  exact .inr ⟨not_not.mp hpin, not_le.mp hfull, rfl⟩

theorem exec_dbEdge_cases {mask : PinMask} (h : exec (.dbEdge mask) s = .next t) :
    ((mask &&& s.dbMask = 0#16 ∨ s.dbInit = false) ∧ ∃ st v, t = s.ret st v) ∨
    (mask &&& s.dbMask ≠ 0#16 ∧ s.dbInit = true ∧ t = ((s.timerStop.timerCount 0#20).timerStart).ret .ok 0#32) := by
  obtain rfl := Host.Outcome.next.inj h
  split_ifs with hmask hinit
  · exact .inl ⟨.inl hmask, _, _, rfl⟩
  · exact .inl ⟨.inr hinit, _, _, rfl⟩
  · exact .inr ⟨hmask, Bool.eq_true_of_not_eq_false hinit, rfl⟩

theorem exec_timTick_cases (h : exec .timTick s = .next t) :
    (s.timRun = false ∧ t = s.done) ∨
    (s.timRun = true ∧ s.timCnt + 1#20 ≠ s.dbPeriod ∧ t = (s.timerCount (s.timCnt + 1#20)).done) ∨
    (s.timRun = true ∧ s.timCnt + 1#20 = s.dbPeriod ∧ t = (s.timerCount 0#20).performSettle.done) := by
  obtain rfl := Host.Outcome.next.inj h
  split_ifs with hrun hlast
  · exact .inr (.inr ⟨hrun, hlast, rfl⟩)
  · exact .inr (.inl ⟨hrun, hlast, rfl⟩)
  · exact .inl ⟨Bool.eq_false_of_not_eq_true hrun, rfl⟩

theorem exec_srCreateSpi_cases {spi : SpiHandle} {rclk : LineId} (h : exec (.srCreateSpi spi rclk) s = .next t) :
    (∃ st v, t = s.ret st v) ∨
    (spi ≠ 0#2 ∧ s.spiRegCount.toNat < Config.spiRegCapacity ∧
      t = ((s.appendSpiReg { h := spi, inst := Inst.desc (.spiSw spi rclk) }).noteInst (.spiSw spi rclk)).ret .ok
        (Inst.desc (.spiSw spi rclk))) := by
  obtain rfl := Host.Outcome.next.inj h
  split_ifs with hnull hfull
  iterate 3 exact .inl ⟨_, _, rfl⟩
  exact .inr ⟨hnull, not_le.mp hfull, rfl⟩

theorem spiSend_snd_cases (s : State) (h : SpiHandle) (addr : Addr) (len : Len) :
    (s.spiSend h addr len).2 = s ∨
    (len ≠ 0#8 ∧ (s.spiSend h addr len).2 =
      (s.setPeriph h { busy := true, addr := addr, len := len, idx := 0#8 }).sendEvent h addr len) := by
  cases hp : s.periph h with
  | none => left; unfold State.spiSend; rw [hp]
  | some p =>
    rw [spiSend_cases s h addr len p hp]
    split_ifs with hbusy hlen
    iterate 3 exact .inl rfl
    exact .inr ⟨hlen, rfl⟩

theorem exec_spiByte_cases {spi : SpiHandle} (h : exec (.spiByte spi) s = .next t) :
    t = s.done ∨
    ∃ p b, s.periph spi = some p ∧ p.busy = true ∧
      ((p.idx + 1#8 = p.len ∧
          t = (((s.transmit spi b).setPeriph spi { p with idx := p.idx + 1#8, busy := false }).performComplete spi).done) ∨
        (p.idx + 1#8 ≠ p.len ∧ t = ((s.transmit spi b).setPeriph spi { p with idx := p.idx + 1#8 }).done)) := by
  obtain rfl := Host.Outcome.next.inj h
  cases hp : s.periph spi with
  | none => exact .inl rfl
  | some p =>
    dsimp only
    split_ifs with hidle hlast
    · exact .inl rfl
    · exact .inr ⟨p, _, rfl, Bool.eq_true_of_not_eq_false hidle, .inl ⟨hlast, rfl⟩⟩
    · exact .inr ⟨p, _, rfl, Bool.eq_true_of_not_eq_false hidle, .inr ⟨hlast, rfl⟩⟩

theorem exec_spiFail_cases {spi : SpiHandle} (h : exec (.spiFail spi) s = .next t) :
    t = s.done ∨ ∃ p : SpiPeriph, t = (s.setPeriph spi { p with busy := false }).done := by
  obtain rfl := Host.Outcome.next.inj h
  cases hp : s.periph spi with
  | none => exact .inl rfl
  | some p =>
    dsimp only
    split_ifs
    · exact .inl rfl
    · exact .inr ⟨p, rfl⟩

end Guards

/-! ## The two tables (R30, R33) -/

/-- A table with a value put at its first free place: the entries before it, then the value. -/
theorem take_setIfInBounds_snoc {α : Type} {n k : Nat} (v : Vector α n) (a : α) (hk : k < n) :
    (v.setIfInBounds k a).toList.take (k + 1) = v.toList.take k ++ [a] := by
  rw [take_succ_snoc _ k a (by simp [hk]), Vector.toList_setIfInBounds, List.take_set_of_le le_rfl]

theorem lines_congr {s t : State} (hc : t.dbCount = s.dbCount) (hl : t.line = s.line) : t.lines = s.lines := by
  unfold State.lines; rw [hc, hl]

theorem registry_congr {s t : State} (hc : t.spiRegCount = s.spiRegCount) (hr : t.spiReg = s.spiReg) :
    t.registry = s.registry := by
  unfold State.registry; rw [hc, hr]

theorem appendLine_dbCount_toNat {s : State} (hlt : s.dbCount.toNat < Config.dbCapacity) (e : LineEntry) :
    (s.appendLine e).dbCount.toNat = s.dbCount.toNat + 1 := by
  unfold Config.dbCapacity at hlt
  rw [State.appendLine_dbCount]
  bv_omega

/-- A registration puts its entry after those that stand (R114). -/
theorem lines_appendLine {s : State} (hlt : s.dbCount.toNat < Config.dbCapacity) (e : LineEntry) :
    (s.appendLine e).lines = s.lines ++ [e] := by
  unfold State.lines
  rw [appendLine_dbCount_toNat hlt, State.appendLine_line]
  exact take_setIfInBounds_snoc s.line e hlt

/-- A creation puts its entry after those that stand (R144). -/
theorem registry_appendSpiReg {s : State} (hlt : s.spiRegCount.toNat < Config.spiRegCapacity) (e : SpiRegEntry) :
    (s.appendSpiReg e).registry = s.registry ++ [e] := by
  unfold Config.spiRegCapacity at hlt
  have hcount : (s.spiRegCount + 1#2).toNat = s.spiRegCount.toNat + 1 := by bv_omega
  unfold State.registry
  rw [State.appendSpiReg_spiRegCount, hcount, State.appendSpiReg_spiReg]
  exact take_setIfInBounds_snoc s.spiReg e hlt

/-- An entry after a settle: it holds its live level (R120). -/
def LineEntry.settled (g : Sparse Level) (e : LineEntry) : LineEntry := { e with lastState := liveLevel g e }

/-- The registered lines after a settle (R120 to R122). -/
theorem lines_performSettle (s : State) : s.performSettle.lines = s.lines.map (LineEntry.settled s.gpioIn) := by
  apply List.ext_getElem?
  intro k
  rw [List.getElem?_map]
  unfold State.lines
  rw [State.performSettle_dbCount, List.getElem?_take, List.getElem?_take, Vector.getElem?_toList, Vector.getElem?_toList,
    performSettle_line]
  split
  · rfl
  · rfl

/-! ## The Debounce unit's invariant (R31, R125) -/

section DebounceInv

variable {s t : State}

/-- The invariant is one of the unit's own state. -/
theorem State.DebounceInv.congr (hs : s.DebounceInv) (h : SameDebounce s t) : t.DebounceInv := by
  have hl := lines_congr h.dbCount h.line
  obtain ⟨hinit, htim, hper, hrun, hcnt, hcount, hmask, -⟩ := h
  obtain ⟨count_le, mask_eq, pin_oneHot, cnt_lt, cnt_zero, tim_bound, period_range, armed_mask⟩ := hs
  constructor <;> simp only [hl, hinit, htim, hper, hrun, hcnt, hcount, hmask] <;> assumption

/-- The period of a whole number of milliseconds never wraps (R112). -/
theorem periodOf_toNat (ms : Millis) : (periodOf ms).toNat = 10 * ms.toNat := by
  have hms := ms.isLt
  unfold periodOf Config.ticksPerMs
  rw [BitVec.toNat_ofNat]
  exact Nat.mod_eq_of_lt (by omega)

theorem State.DebounceInv.initialise (hs : s.DebounceInv) {tim : TimerHandle} {ms : Millis} (htim : tim ≠ 0#2) (hms : ms ≠ 0#16) :
    State.DebounceInv { s with dbTim := tim, dbPeriod := periodOf ms, timRun := false, timCnt := 0#20, dbInit := true } := by
  have hlow : ms.toNat ≠ 0 := fun h0 => hms (BitVec.eq_of_toNat_eq h0)
  have hhigh := ms.isLt
  have hper := periodOf_toNat ms
  exact { hs with
    cnt_lt := fun _ => by rw [hper]; exact Nat.mul_pos (by decide) (Nat.pos_of_ne_zero hlow)
    cnt_zero := fun h => nomatch h
    tim_bound := fun _ => htim
    period_range := fun _ => by rw [hper]; omega
    armed_mask := fun h => nomatch h }

theorem or_ne_zero_of_left {a : PinMask} (b : PinMask) (ha : a ≠ 0#16) : a ||| b ≠ 0#16 := by
  intro h
  exact ha (BitVec.or_eq_zero_iff.mp h).1

theorem State.DebounceInv.appendLine (hs : s.DebounceInv) {e : LineEntry} (hlt : s.dbCount.toNat < Config.dbCapacity)
    (hpin : popcount e.pin = 1) : (s.appendLine e).DebounceInv := by
  have hlines := lines_appendLine hlt e
  have hmask : s.dbMask ||| e.pin = ((s.lines ++ [e]).map LineEntry.pin).foldl (· ||| ·) 0#16 := by
    rw [List.map_append, List.foldl_append, ← hs.mask_eq]
    rfl
  have hpins : ∀ e' ∈ s.lines ++ [e], popcount e'.pin = 1 := by
    intro e' he'
    obtain hold | hnew := List.mem_append.mp he'
    · exact hs.pin_oneHot e' hold
    · obtain rfl := List.mem_singleton.mp hnew
      exact hpin
  exact { hs with
    count_le := by rw [appendLine_dbCount_toNat hlt]; exact hlt
    mask_eq := by rw [hlines]; exact hmask
    pin_oneHot := by rw [hlines]; exact hpins
    armed_mask := fun hrun => or_ne_zero_of_left e.pin (hs.armed_mask hrun) }

theorem State.DebounceInv.timerCount (hs : s.DebounceInv) {n : Ticks} (hinit : s.dbInit = true)
    (hn : n.toNat < s.dbPeriod.toNat) : (s.timerCount n).DebounceInv :=
  { hs with cnt_lt := fun _ => hn, cnt_zero := fun h => nomatch hinit.symm.trans h }

theorem State.DebounceInv.timerStop (hs : s.DebounceInv) : s.timerStop.DebounceInv :=
  { hs with cnt_zero := fun h => ⟨(hs.cnt_zero h).1, rfl⟩, armed_mask := fun h => nomatch h }

theorem State.DebounceInv.timerStart (hs : s.DebounceInv) (hinit : s.dbInit = true) (hmask : s.dbMask ≠ 0#16) :
    s.timerStart.DebounceInv :=
  { hs with cnt_zero := fun h => (nomatch hinit.symm.trans h), armed_mask := fun _ => hmask }

/-- A settle stops the timer and changes of the lines only what they delivered last, so neither count nor pins. -/
theorem State.DebounceInv.performSettle (hs : s.DebounceInv) : s.performSettle.DebounceInv where
  count_le := by rw [State.performSettle_dbCount]; exact hs.count_le
  mask_eq := by
    rw [State.performSettle_dbMask, lines_performSettle, List.map_map]
    exact hs.mask_eq
  pin_oneHot := by
    rw [lines_performSettle]
    intro e he
    obtain ⟨e', he', rfl⟩ := List.mem_map.mp he
    exact hs.pin_oneHot e' he'
  cnt_lt := by simpa using hs.cnt_lt
  cnt_zero := by simpa using fun h => (hs.cnt_zero h).1
  tim_bound := by simpa using hs.tim_bound
  period_range := by simpa using hs.period_range
  armed_mask := by simp

theorem State.DebounceInv.dbInit_of_timRun (hs : s.DebounceInv) (hrun : s.timRun = true) : s.dbInit = true := by
  by_contra hinit
  have hidle := (hs.cnt_zero (Bool.eq_false_of_not_eq_true hinit)).2
  exact nomatch hrun.symm.trans hidle

theorem State.DebounceInv.dbPeriod_pos (hs : s.DebounceInv) (hinit : s.dbInit = true) : (0#20).toNat < s.dbPeriod.toNat :=
  lt_of_lt_of_le (by decide) (hs.period_range hinit).1

theorem State.DebounceInv.ret (hs : s.DebounceInv) (st : Status) (v : ResultValue) : (s.ret st v).DebounceInv :=
  hs.congr ⟨rfl, rfl, rfl, rfl, rfl, rfl, rfl, rfl⟩

theorem State.DebounceInv.done (hs : s.DebounceInv) : s.done.DebounceInv := hs.congr ⟨rfl, rfl, rfl, rfl, rfl, rfl, rfl, rfl⟩

/-- Every operation keeps the Debounce unit's invariant. -/
theorem exec_keeps_debounceInv (i : Instr) (s t : State) (h : exec i s = .next t) (hs : s.DebounceInv) : t.DebounceInv := by
  cases i with
  | dbInit tim ms =>
    obtain ⟨st, v, rfl⟩ | ⟨-, htim, hms, rfl⟩ := exec_dbInit_cases h
    · exact hs.ret st v
    · exact (hs.initialise htim hms).ret .ok 0#32
  | dbRegister port pin level cb =>
    obtain ⟨st, v, rfl⟩ | ⟨hpin, hlt, rfl⟩ := exec_dbRegister_cases h
    · exact hs.ret st v
    · exact (hs.appendLine (e := ⟨port, pin, level, cb⟩) hlt hpin).congr ⟨rfl, rfl, rfl, rfl, rfl, rfl, rfl, rfl⟩
  | dbEdge mask =>
    obtain ⟨-, st, v, rfl⟩ | ⟨hmask, hinit, rfl⟩ := exec_dbEdge_cases h
    · exact hs.ret st v
    · have hne : s.dbMask ≠ 0#16 := fun h0 => hmask (by rw [h0, BitVec.and_zero])
      exact ((hs.timerStop.timerCount hinit (hs.dbPeriod_pos hinit)).timerStart hinit hne).ret .ok 0#32
  | dbSettle =>
    obtain rfl := Host.Outcome.next.inj h
    exact hs.performSettle.done
  | timTick =>
    obtain ⟨-, rfl⟩ | ⟨hrun, hnot, rfl⟩ | ⟨hrun, -, rfl⟩ := exec_timTick_cases h
    · exact hs.done
    · have hinit := hs.dbInit_of_timRun hrun
      have hlt := hs.cnt_lt hinit
      exact (hs.timerCount hinit (by bv_omega)).done
    · have hinit := hs.dbInit_of_timRun hrun
      exact (hs.timerCount hinit (hs.dbPeriod_pos hinit)).performSettle.done
  | srCreateGpio | srCreateSpi | srWrite | srComplete | spiByte | spiFail => exact hs.congr (sameDebounce_of_shift rfl h)
  | envLevel | envStore =>
    obtain rfl := Host.Outcome.next.inj h
    exact hs.congr ⟨rfl, rfl, rfl, rfl, rfl, rfl, rfl, rfl⟩

end DebounceInv

/-! ## The Shift-register unit's invariant (R33, R34) -/

section ShiftInv

variable {s t : State}

/-- The invariant is one of the unit's own state. -/
theorem State.ShiftInv.congr (hs : s.ShiftInv) (h : SameShift s t) : t.ShiftInv where
  entry_ok := by rw [registry_congr h.spiRegCount h.spiReg]; exact hs.entry_ok
  busy_left := fun spi p hp => hs.busy_left spi p (by rwa [periph_congr h.spi] at hp)

theorem State.ShiftInv.setPeriph (hs : s.ShiftInv) (spi : SpiHandle) {p : SpiPeriph}
    (hp : p.busy = true → p.idx.toNat < p.len.toNat) : (s.setPeriph spi p).ShiftInv where
  entry_ok := by rw [registry_congr (State.setPeriph_spiRegCount s spi p) (State.setPeriph_spiReg s spi p)]; exact hs.entry_ok
  busy_left := by
    intro i q hq hbusy
    by_cases hnull : spi = 0#2
    · subst hnull
      exact hs.busy_left i q hq hbusy
    · rw [periph_setPeriph s spi i p hnull] at hq
      split_ifs at hq
      · obtain rfl := Option.some.inj hq
        exact hp hbusy
      · exact hs.busy_left i q hq hbusy

/-- The storage clock of an `SPI_SW` descriptor is read back from it (R93). -/
theorem descRclk_spiSw (spi : SpiHandle) (rclk : LineId) : descRclk (Inst.desc (.spiSw spi rclk)) = rclk := by
  apply BitVec.eq_of_getLsbD_eq
  intro i hi
  simp only [descRclk, Inst.desc, BitVec.getLsbD_extractLsb', BitVec.getLsbD_append]
  interval_cases i <;> simp

theorem State.ShiftInv.appendSpiReg (hs : s.ShiftInv) {spi : SpiHandle} (rclk : LineId) (hnull : spi ≠ 0#2)
    (hlt : s.spiRegCount.toNat < Config.spiRegCapacity) :
    (s.appendSpiReg { h := spi, inst := Inst.desc (.spiSw spi rclk) }).ShiftInv where
  entry_ok := by
    rw [registry_appendSpiReg hlt]
    intro e he
    obtain hold | hnew := List.mem_append.mp he
    · exact hs.entry_ok e hold
    · obtain rfl := List.mem_singleton.mp hnew
      exact ⟨hnull, by rw [descRclk_spiSw]⟩
  busy_left := hs.busy_left

theorem State.ShiftInv.spiSend (hs : s.ShiftInv) (spi : SpiHandle) (addr : Addr) (len : Len) :
    (s.spiSend spi addr len).2.ShiftInv := by
  obtain heq | ⟨hlen, heq⟩ := spiSend_snd_cases s spi addr len
  · rwa [heq]
  · rw [heq]
    have hpos : 0 < len.toNat := Nat.pos_of_ne_zero fun h0 => hlen (BitVec.eq_of_toNat_eq h0)
    have hset := hs.setPeriph spi (p := { busy := true, addr := addr, len := len, idx := 0#8 }) fun _ => hpos
    exact hset.congr ⟨rfl, rfl, rfl⟩

/-- Every operation keeps the Shift-register unit's invariant. -/
theorem exec_keeps_shiftInv (i : Instr) (s t : State) (h : exec i s = .next t) (hs : s.ShiftInv) : t.ShiftInv := by
  cases i with
  | dbInit | dbRegister | dbEdge | dbSettle | timTick => exact hs.congr (sameShift_of_debounce rfl h)
  | srCreateGpio srclk rclk ser =>
    obtain rfl := Host.Outcome.next.inj h
    exact hs.congr ⟨rfl, rfl, rfl⟩
  | srCreateSpi spi rclk =>
    obtain ⟨st, v, rfl⟩ | ⟨hnull, hlt, rfl⟩ := exec_srCreateSpi_cases h
    · exact hs.congr ⟨rfl, rfl, rfl⟩
    · exact (hs.appendSpiReg rclk hnull hlt).congr ⟨rfl, rfl, rfl⟩
  | srWrite inst addr len =>
    obtain rfl | ⟨srclk, rclk, ser, -, rfl⟩ | ⟨spi, rclk, st, v, -, rfl⟩ := exec_srWrite_inv h
    · exact hs.congr ⟨rfl, rfl, rfl⟩
    · exact hs.congr ⟨by simp, by simp, by simp⟩
    · have hopen : ((s.gpioWrite rclk false).noteInst (.spiSw spi rclk)).ShiftInv := hs.congr ⟨rfl, rfl, rfl⟩
      exact (hopen.spiSend spi addr len).congr ⟨rfl, rfl, rfl⟩
  | srComplete spi =>
    obtain rfl := Host.Outcome.next.inj h
    exact hs.congr ⟨by simp, by simp, by simp⟩
  | spiByte spi =>
    obtain rfl | ⟨p, b, hp, hbusy, ⟨-, rfl⟩ | ⟨hmore, rfl⟩⟩ := exec_spiByte_cases h
    · exact hs.congr ⟨rfl, rfl, rfl⟩
    all_goals have hsent : (s.transmit spi b).ShiftInv := hs.congr ⟨rfl, rfl, rfl⟩
    · have hended := hsent.setPeriph spi (p := { p with idx := p.idx + 1#8, busy := false }) fun hb => nomatch hb
      exact hended.congr ⟨by simp, by simp, by simp⟩
    · have hleft := hs.busy_left spi p hp hbusy
      have hgoes := hsent.setPeriph spi (p := { p with idx := p.idx + 1#8 }) fun _ => by dsimp only; bv_omega
      exact hgoes.congr ⟨rfl, rfl, rfl⟩
  | spiFail spi =>
    obtain rfl | ⟨p, rfl⟩ := exec_spiFail_cases h
    · exact hs.congr ⟨rfl, rfl, rfl⟩
    · exact (hs.setPeriph spi (p := { p with busy := false }) fun hb => nomatch hb).congr ⟨rfl, rfl, rfl⟩
  | envLevel | envStore =>
    obtain rfl := Host.Outcome.next.inj h
    exact hs.congr ⟨rfl, rfl, rfl⟩

end ShiftInv

/-! ## What the operations do to the driven levels (R42, R43)

Every operation is a run of drives and of updates that drive nothing. What each of these keeps, every operation keeps. -/

/-- An update that drives nothing: the levels and the observed cascades' lines stand, and no drive is appended to the trace. -/
structure DrivesNothing (s t : State) : Prop where
  gpioOut : t.gpioOut = s.gpioOut
  trace : Appends (fun e => ∀ ln v, e ≠ .w ln v) s t
  taps : t.cascades.map (fun c => (c.tap, c.chips)) = s.cascades.map (fun c => (c.tap, c.chips))

/-- One drive of a line, or an update that drives nothing. -/
def DriveMove (s t : State) : Prop := (∃ ln v, t = s.gpioWrite ln v) ∨ DrivesNothing s t

/-- Any number of drives and of updates that drive nothing. -/
abbrev DriveRun : State → State → Prop := Relation.ReflTransGen DriveMove

section DriveRun

variable {s t u : State}

theorem DrivesNothing.of_eq (hout : t.gpioOut = s.gpioOut) (htrace : t.outTrace = s.outTrace) (hc : t.cascades = s.cascades) :
    DrivesNothing s t := ⟨hout, .of_eq htrace, by rw [hc]⟩

theorem DriveRun.drive (h : DriveRun s t) (ln : LineId) (v : Level) : DriveRun s (t.gpioWrite ln v) :=
  h.tail (.inl ⟨ln, v, rfl⟩)

theorem DriveRun.quiet (h : DriveRun s t) (hq : DrivesNothing t u) : DriveRun s u := h.tail (.inr hq)

theorem DriveRun.ret (h : DriveRun s t) (st : Status) (v : ResultValue) : DriveRun s (t.ret st v) :=
  h.quiet (.of_eq rfl rfl rfl)

theorem DriveRun.done (h : DriveRun s t) : DriveRun s t.done := h.quiet (.of_eq rfl rfl rfl)

theorem DriveRun.redrawShared (h : DriveRun s t) : DriveRun s t.redrawShared :=
  h.quiet ⟨rfl, .of_eq rfl, redrawShared_tap_chips t⟩

theorem DriveRun.timerCount (h : DriveRun s t) (n : Ticks) : DriveRun s (t.timerCount n) := h.quiet (.of_eq rfl rfl rfl)

theorem DriveRun.appendLine (h : DriveRun s t) (e : LineEntry) : DriveRun s (t.appendLine e) := h.quiet (.of_eq rfl rfl rfl)

theorem DriveRun.appendSpiReg (h : DriveRun s t) (e : SpiRegEntry) : DriveRun s (t.appendSpiReg e) :=
  h.quiet (.of_eq rfl rfl rfl)

theorem map_tap_chips_of_stages {f : Cascade → Cascade} (hf : ∀ c, (f c).tap = c.tap ∧ (f c).chips = c.chips) (cs : List Cascade) :
    (cs.map f).map (fun c => (c.tap, c.chips)) = cs.map (fun c => (c.tap, c.chips)) := by
  rw [List.map_map]
  exact List.map_congr_left fun c _ => Prod.ext (hf c).1 (hf c).2

theorem DriveRun.noteInst (h : DriveRun s t) (i : Inst) : DriveRun s (t.noteInst i) := by
  have hmeet : ∀ c : Cascade, (c.meetInst i).tap = c.tap ∧ (c.meetInst i).chips = c.chips := by
    intro c
    unfold Cascade.meetInst
    split <;> exact ⟨rfl, rfl⟩
  exact DriveRun.redrawShared (h.quiet ⟨rfl, .of_eq rfl, map_tap_chips_of_stages hmeet t.cascades⟩)

theorem DriveRun.transmit (h : DriveRun s t) (spi : SpiHandle) (b : Byte) : DriveRun s (t.transmit spi b) := by
  have hsent : ∀ c : Cascade, (c.onTransmit spi b).tap = c.tap ∧ (c.onTransmit spi b).chips = c.chips := by
    intro c
    have hkey := Cascade.onTransmit_key spi b c
    simp only [Cascade.key, Prod.mk.injEq] at hkey
    exact ⟨hkey.1, hkey.2.1⟩
  exact DriveRun.redrawShared
    (h.quiet ⟨rfl, .one (e := .tx spi b) rfl fun _ _ => Event.noConfusion, map_tap_chips_of_stages hsent t.cascades⟩)

theorem DriveRun.setPeriph (h : DriveRun s t) (spi : SpiHandle) (p : SpiPeriph) : DriveRun s (t.setPeriph spi p) :=
  h.quiet (.of_eq (by simp) (by simp) (by simp))

theorem DriveRun.spiSend (h : DriveRun s t) (spi : SpiHandle) (addr : Addr) (len : Len) :
    DriveRun s (t.spiSend spi addr len).2 := by
  obtain heq | ⟨p, heq⟩ := spiSend_snd t spi addr len
  · rwa [heq]
  · rw [heq]
    exact (h.setPeriph spi p).quiet ⟨rfl, .one rfl fun _ _ => Event.noConfusion, rfl⟩

theorem DriveRun.performComplete (h : DriveRun s t) (spi : SpiHandle) : DriveRun s (t.performComplete spi) := by
  cases ho : t.owner spi with
  | none => rwa [performComplete_none t spi ho]
  | some e =>
    rw [performComplete_some t spi e ho]
    exact ((h.drive _ false).drive _ true).redrawShared

theorem DriveRun.clockBits (h : DriveRun s t) (srclk ser : LineId) (bits : List Level) :
    DriveRun s (bits.foldl (fun u v => u.clockBit srclk ser v) t) := by
  induction bits generalizing t with
  | nil => exact h
  | cons b bits ih => exact ih (((h.drive srclk false).drive ser b).drive srclk true)

theorem DriveRun.clockBytes (h : DriveRun s t) (srclk ser : LineId) (n : Nat) (a : Addr) :
    DriveRun s (State.clockBytes srclk ser n a t) := by
  induction n generalizing t a with
  | zero => exact h
  | succ n ih => exact ih (h.clockBits srclk ser (bitsOut (memRead t.mem a))) (a + 1#16)

theorem DriveRun.performSettle (h : DriveRun s t) : DriveRun s t.performSettle := by
  refine h.quiet ⟨State.performSettle_gpioOut t, ?_, by rw [State.performSettle_cascades]⟩
  refine ⟨settleEvents t.gpioIn t.lines, by rw [performSettle_eq], fun e he => ?_⟩
  rintro ln v rfl
  exact nomatch isCallback_of_mem_settleEvents he

/-- Every operation is a run of drives and of updates that drive nothing. -/
theorem exec_driveRun {i : Instr} (h : exec i s = .next t) : DriveRun s t := by
  have start : DriveRun s s := .refl
  cases i with
  | dbInit tim ms =>
    obtain ⟨st, v, rfl⟩ | rfl := exec_dbInit_inv h
    · exact start.ret st v
    · exact start.quiet (.of_eq rfl rfl rfl)
  | dbRegister port pin level cb =>
    obtain ⟨st, v, rfl⟩ | rfl := exec_dbRegister_inv h
    · exact start.ret st v
    · exact ((start.appendLine _).redrawShared).ret _ _
  | dbEdge mask =>
    obtain ⟨st, v, rfl⟩ | rfl := exec_dbEdge_inv h
    · exact start.ret st v
    · exact start.quiet (.of_eq rfl rfl rfl)
  | dbSettle =>
    obtain rfl := Host.Outcome.next.inj h
    exact start.performSettle.done
  | timTick =>
    obtain rfl | ⟨n, rfl⟩ | rfl := exec_timTick_inv h
    · exact start.done
    · exact (start.timerCount n).done
    · exact (start.timerCount 0#20).performSettle.done
  | srCreateGpio srclk rclk ser =>
    obtain rfl := Host.Outcome.next.inj h
    exact (start.noteInst _).ret _ _
  | srCreateSpi spi rclk =>
    obtain ⟨st, v, rfl⟩ | rfl := exec_srCreateSpi_inv h
    · exact start.ret st v
    · exact ((start.appendSpiReg _).noteInst _).ret _ _
  | srWrite inst addr len =>
    obtain rfl | ⟨srclk, rclk, ser, -, rfl⟩ | ⟨spi, rclk, st, v, -, rfl⟩ := exec_srWrite_inv h
    · exact start.ret _ _
    · exact ((((start.drive rclk false).clockBytes srclk ser len.toNat addr).drive rclk true).noteInst _).ret _ _
    · exact (((start.drive rclk false).noteInst _).spiSend spi addr len).ret st v
  | srComplete spi =>
    obtain rfl := Host.Outcome.next.inj h
    exact (start.performComplete spi).done
  | spiByte spi =>
    obtain rfl | ⟨b, p, rfl | rfl⟩ := exec_spiByte_inv h
    · exact start.done
    · exact ((start.transmit spi b).setPeriph spi p).done
    · exact (((start.transmit spi b).setPeriph spi p).performComplete spi).done
  | spiFail spi =>
    obtain rfl | ⟨p, rfl⟩ := exec_spiFail_inv h
    · exact start.done
    · exact (start.setPeriph spi p).done
  | envLevel | envStore =>
    obtain rfl := Host.Outcome.next.inj h
    exact start.quiet (.of_eq rfl rfl rfl)

/-- What a drive keeps and what an update that drives nothing keeps, every operation keeps. -/
theorem exec_keeps_of_drives {P : State → Prop} (drive : ∀ s ln v, P s → P (s.gpioWrite ln v))
    (quiet : ∀ s t, DrivesNothing s t → P s → P t) (i : Instr) (s t : State) (h : exec i s = .next t) (hs : P s) : P t := by
  have hrun := exec_driveRun h
  clear h
  induction hrun with
  | refl => exact hs
  | tail _ hmove ih =>
    obtain ⟨ln, v, rfl⟩ | hq := hmove
    · exact drive _ ln v ih
    · exact quiet _ _ hq ih

end DriveRun

/-! ## The driven levels by the trace (R42, R43) -/

theorem lineDrives_append (ln : LineId) (es fs : List Event) :
    lineDrives ln (es ++ fs) = lineDrives ln es ++ lineDrives ln fs := by
  induction es with
  | nil => rfl
  | cons e es ih =>
    cases e with
    | w => simp only [List.cons_append, lineDrives, ih]; split <;> rfl
    | cb | send | tx => exact ih

theorem lineDrives_of_no_drive (ln : LineId) {es : List Event} (hes : ∀ e ∈ es, ∀ l v, e ≠ .w l v) : lineDrives ln es = [] := by
  induction es with
  | nil => rfl
  | cons e es ih =>
    obtain ⟨he, hrest⟩ := List.forall_mem_cons.mp hes
    cases e with
    | w l v => exact absurd rfl (he l v)
    | cb | send | tx => exact ih hrest

theorem lastLevel_eq_getLast? (vs : List Level) : lastLevel vs = vs.getLast? := by
  induction vs with
  | nil => rfl
  | cons v vs ih =>
    cases vs with
    | nil => rfl
    | cons w vs => rw [List.getLast?_cons_cons, ← ih]; rfl

theorem lastLevel_snoc (vs : List Level) (v : Level) : lastLevel (vs ++ [v]) = some v := by
  rw [lastLevel_eq_getLast?, List.getLast?_concat]

theorem DrivesNothing.lineDrives {s t : State} (h : DrivesNothing s t) (ln : LineId) :
    lineDrives ln t.outTrace = lineDrives ln s.outTrace := by
  obtain ⟨es, ht, hes⟩ := h.trace
  rw [ht, lineDrives_append, lineDrives_of_no_drive ln hes, List.append_nil]

theorem State.DrivenByTrace.gpioWrite {s : State} (hs : s.DrivenByTrace) (ln : LineId) (v : Level) :
    (s.gpioWrite ln v).DrivenByTrace := by
  intro l
  rw [drivenLevel_gpioWrite, State.gpioWrite_outTrace, lineDrives_append]
  by_cases hl : l = ln
  · subst hl
    simp [lineDrives, lastLevel_snoc]
  · simp [lineDrives, hl, Ne.symm hl, hs l]

theorem exec_keeps_drivenByTrace : ∀ (i : Instr) (s t : State), exec i s = .next t → s.DrivenByTrace → t.DrivenByTrace :=
  exec_keeps_of_drives (fun _ ln v hs => hs.gpioWrite ln v)
    (fun _ _ hq hs ln => by rw [hq.gpioOut, hq.lineDrives, hs ln])

/-- Settles O15: a drive writes the level it appends, and all else an operation does drives nothing. -/
theorem stepKeepsDrivenByTrace : Obligations.StepKeepsDrivenByTrace :=
  fun _ _ hs h => step_keeps (P := State.DrivenByTrace) (fun _ _ _ _ hs => hs) exec_keeps_drivenByTrace h hs

/-! ## The canonical forms (R61, R174) -/

section Forms

variable {i : Instr} {s t : State}

/-- Memory and input levels after an operation that is no move of the environment. -/
theorem exec_mem_gpioIn (hi : ofDebounceUnit i = true ∨ ofShiftUnit i = true) (h : exec i s = .next t) :
    t.mem = s.mem ∧ t.gpioIn = s.gpioIn := by
  obtain hi | hi := hi
  · constructor <;> rw [exec_debounce_frame hi h]
  · constructor <;> rw [exec_shift_frame hi h]

theorem exec_keeps_mem_wf (h : exec i s = .next t) (hs : Memory.wf s.mem = true) : Memory.wf t.mem = true := by
  obtain hi | hi | ⟨ln, v, rfl⟩ | ⟨a, v, rfl⟩ := unit_cases i
  · rwa [(exec_mem_gpioIn (.inl hi) h).1]
  · rwa [(exec_mem_gpioIn (.inr hi) h).1]
  · obtain rfl := Host.Outcome.next.inj h
    exact hs
  · obtain rfl := Host.Outcome.next.inj h
    exact memWrite_wf s a v hs

theorem exec_keeps_gpioIn_wf (h : exec i s = .next t) (hs : Sparse.wf unlistedLevel 256 s.gpioIn = true) :
    Sparse.wf unlistedLevel 256 t.gpioIn = true := by
  obtain hi | hi | ⟨ln, v, rfl⟩ | ⟨a, v, rfl⟩ := unit_cases i
  · rwa [(exec_mem_gpioIn (.inl hi) h).2]
  · rwa [(exec_mem_gpioIn (.inr hi) h).2]
  · obtain rfl := Host.Outcome.next.inj h
    exact setInput_wf s ln v hs
  · obtain rfl := Host.Outcome.next.inj h
    exact hs

theorem exec_keeps_gpioOut_wf :
    ∀ (i : Instr) (s t : State), exec i s = .next t → Sparse.wf none 256 s.gpioOut = true → Sparse.wf none 256 t.gpioOut = true :=
  exec_keeps_of_drives (P := fun s => Sparse.wf none 256 s.gpioOut = true) (fun s ln v hs => gpioWrite_wf s ln v hs)
    (fun _ _ hq hs => by rwa [hq.gpioOut])

/-- What R174 asks of the observed cascades is asked of their lines and chips. -/
theorem cascades_wf_congr (h : t.cascades.map (fun c => (c.tap, c.chips)) = s.cascades.map (fun c => (c.tap, c.chips)))
    (hs : ∀ c ∈ s.cascades, c.wf = true) : ∀ c ∈ t.cascades, c.wf = true := by
  intro c hc
  have hmem : (c.tap, c.chips) ∈ s.cascades.map (fun c => (c.tap, c.chips)) := h ▸ List.mem_map_of_mem hc
  obtain ⟨d, hd, hdc⟩ := List.mem_map.mp hmem
  obtain ⟨htap, hchips⟩ := Prod.mk.inj hdc
  have hwf := hs d hd
  unfold Cascade.wf Cascade.distinct at hwf ⊢
  rwa [htap, hchips] at hwf

theorem gpioWrite_tap_chips (s : State) (ln : LineId) (v : Level) :
    (s.gpioWrite ln v).cascades.map (fun c => (c.tap, c.chips)) = s.cascades.map (fun c => (c.tap, c.chips)) := by
  apply List.ext_getElem?
  intro k
  rw [List.getElem?_map, List.getElem?_map, State.gpioWrite_cascades, observeDrive_getElem?, Option.map_map]
  congr 1
  funext c
  have hkey := Cascade.onDrive_key s.gpioOut ln v s.outTrace.length (0 + k) c
  simp only [Cascade.key, Prod.mk.injEq] at hkey
  exact Prod.ext hkey.1 hkey.2.1

theorem exec_keeps_cascades_wf :
    ∀ (i : Instr) (s t : State), exec i s = .next t → (∀ c ∈ s.cascades, c.wf = true) → ∀ c ∈ t.cascades, c.wf = true :=
  exec_keeps_of_drives (P := fun s => ∀ c ∈ s.cascades, c.wf = true)
    (fun s ln v hs => cascades_wf_congr (gpioWrite_tap_chips s ln v) hs) (fun _ _ hq hs => cascades_wf_congr hq.taps hs)

end Forms

/-! ## The invariant of the state -/

theorem exec_keeps_inv (i : Instr) (s t : State) (h : exec i s = .next t) (hs : s.Inv) : t.Inv where
  debounce := exec_keeps_debounceInv i s t h hs.debounce
  shift := exec_keeps_shiftInv i s t h hs.shift
  form := {
    mem_wf := exec_keeps_mem_wf h hs.form.mem_wf
    gpioIn_wf := exec_keeps_gpioIn_wf h hs.form.gpioIn_wf
    gpioOut_wf := exec_keeps_gpioOut_wf i s t h hs.form.gpioOut_wf
    cascades_wf := exec_keeps_cascades_wf i s t h hs.form.cascades_wf }

/-- The stream, the draws and the result have no part in the invariant. -/
theorem State.Inv.ports {s : State} (hs : s.Inv) (is : List Input) (d : Draws) (r : Option Word64) :
    State.Inv { s with stim := is, draws := d, result := r } where
  debounce := hs.debounce.congr ⟨rfl, rfl, rfl, rfl, rfl, rfl, rfl, rfl⟩
  shift := hs.shift.congr ⟨rfl, rfl, rfl⟩
  form := ⟨hs.form.mem_wf, hs.form.gpioIn_wf, hs.form.gpioOut_wf, hs.form.cascades_wf⟩

/-- Settles O13: each operation keeps the invariant of each unit and the canonical forms, and a step is an operation on a state with the
next item of the stream taken off, or changes the result at most. -/
theorem stepKeepsInv : Obligations.StepKeepsInv :=
  fun _ _ hs h => step_keeps (fun _ is d r hs => hs.ports is d r) exec_keeps_inv h hs

/-! ## What the operations do to the registered lines (R30, R31 (f), R122) -/

section Lines

variable {s t : State}

/-- Every operation leaves the registered lines and invokes no callback, or registers one line and appends nothing, or settles. -/
theorem exec_lines_cases {i : Instr} (h : exec i s = .next t) :
    (t.lines = s.lines ∧ Appends (fun e => e.isCallback = false) s t) ∨
    (∃ e, t.lines = s.lines ++ [e] ∧ t.outTrace = s.outTrace) ∨
    (t.lines = s.lines.map (LineEntry.settled s.gpioIn) ∧ t.outTrace = s.outTrace ++ settleEvents s.gpioIn s.lines) := by
  have settled (u : State) : u.performSettle.outTrace = u.outTrace ++ settleEvents u.gpioIn u.lines := by rw [performSettle_eq]
  cases i with
  | dbInit tim ms => obtain ⟨st, v, rfl⟩ | rfl := exec_dbInit_inv h <;> exact .inl ⟨rfl, .of_eq rfl⟩
  | dbRegister port pin level cb =>
    obtain ⟨st, v, rfl⟩ | ⟨-, hlt, rfl⟩ := exec_dbRegister_cases h
    · exact .inl ⟨rfl, .of_eq rfl⟩
    · exact .inr (.inl ⟨⟨port, pin, level, cb⟩, lines_appendLine hlt _, rfl⟩)
  | dbEdge mask => obtain ⟨st, v, rfl⟩ | rfl := exec_dbEdge_inv h <;> exact .inl ⟨rfl, .of_eq rfl⟩
  | dbSettle =>
    obtain rfl := Host.Outcome.next.inj h
    exact .inr (.inr ⟨lines_performSettle s, settled s⟩)
  | timTick =>
    obtain rfl | ⟨n, rfl⟩ | rfl := exec_timTick_inv h
    · exact .inl ⟨rfl, .of_eq rfl⟩
    · exact .inl ⟨rfl, .of_eq rfl⟩
    · exact .inr (.inr ⟨lines_performSettle (s.timerCount 0#20), settled (s.timerCount 0#20)⟩)
  | srCreateGpio | srCreateSpi | srWrite | srComplete | spiByte | spiFail =>
    have hsame := sameDebounce_of_shift rfl h
    obtain ⟨es, ht, hes⟩ := exec_appends h
    exact .inl ⟨lines_congr hsame.dbCount hsame.line, es, ht, fun e he => (hes e he).not_isCallback rfl⟩
  | envLevel | envStore =>
    obtain rfl := Host.Outcome.next.inj h
    exact .inl ⟨rfl, .of_eq rfl⟩

/-! ## The levels delivered (R31 (f)) -/

/-- No callback of a scan is one that no entry of it has. -/
theorem callbackLevels_settleEvents_nil {g : Sparse Level} {id : CallbackId} {l : List LineEntry} (hl : ∀ e ∈ l, e.cb ≠ id) :
    callbackLevels id (settleEvents g l) = [] := by
  induction l with
  | nil => rfl
  | cons e l ih =>
    obtain ⟨he, hrest⟩ := List.forall_mem_cons.mp hl
    unfold settleEvents
    split
    · rw [callbackLevels, if_neg he, ih hrest]
    · exact ih hrest

/-- The callback of an entry that alone has it is invoked by a scan once with the live level if that is new, and else not at all. -/
theorem callbackLevels_settleEvents_unique {g : Sparse Level} {l : List LineEntry} {k : Nat} {e : LineEntry} (hk : l[k]? = some e)
    (huniq : ∀ (j : Nat) (e' : LineEntry), l[j]? = some e' → e'.cb = e.cb → j = k) :
    callbackLevels e.cb (settleEvents g l) = if liveLevel g e ≠ e.lastState then [liveLevel g e] else [] := by
  have hbefore : ∀ e' ∈ l.take k, e'.cb ≠ e.cb := by
    intro e' he' hcb
    obtain ⟨j, hj⟩ := List.mem_iff_getElem?.mp he'
    rw [List.getElem?_take] at hj
    split_ifs at hj with hlt
    exact hlt.ne (huniq j e' hj hcb)
  have hafter : ∀ e' ∈ l.drop (k + 1), e'.cb ≠ e.cb := by
    intro e' he' hcb
    obtain ⟨j, hj⟩ := List.mem_iff_getElem?.mp he'
    rw [List.getElem?_drop] at hj
    have := huniq _ e' hj hcb
    omega
  have hsplit : l = l.take k ++ [e] ++ l.drop (k + 1) := by rw [← take_succ_snoc l k e hk, List.take_append_drop]
  rw [hsplit, settleEvents_append, settleEvents_append, callbackLevels_append, callbackLevels_append,
    callbackLevels_settleEvents_nil hbefore, callbackLevels_settleEvents_nil hafter, List.nil_append, List.append_nil]
  unfold settleEvents
  split
  · rw [callbackLevels, if_pos rfl]; rfl
  · rfl

/-- A callback of a scan is that of an entry whose level is new, with its live level. -/
theorem mem_settleEvents_iff {g : Sparse Level} {l : List LineEntry} {id : CallbackId} {v : Level} :
    Event.cb id v ∈ settleEvents g l ↔ ∃ e ∈ l, e.cb = id ∧ liveLevel g e = v ∧ v ≠ e.lastState := by
  induction l with
  | nil => simp [settleEvents]
  | cons e l ih =>
    unfold settleEvents
    split_ifs with hch
    · simp only [List.mem_cons, Event.cb.injEq, ih, exists_eq_or_imp]
      constructor
      · rintro (⟨rfl, rfl⟩ | hmem)
        · exact .inl ⟨rfl, rfl, hch⟩
        · exact .inr hmem
      · rintro (⟨rfl, rfl, -⟩ | hmem)
        · exact .inl ⟨rfl, rfl⟩
        · exact .inr hmem
    · simp only [List.mem_cons, ih, exists_eq_or_imp]
      constructor
      · exact .inr
      · rintro (⟨-, rfl, hne⟩ | hmem)
        · exact absurd hne hch
        · exact hmem

theorem State.DeliveredInv.of_no_callback (hs : s.DeliveredInv) (hl : t.lines = s.lines)
    (ha : Appends (fun e => e.isCallback = false) s t) : t.DeliveredInv := by
  obtain ⟨es, ht, hes⟩ := ha
  have hcb (id : CallbackId) : callbackLevels id t.outTrace = callbackLevels id s.outTrace := by
    rw [ht, callbackLevels_append, callbackLevels_of_no_callback id hes, List.append_nil]
  constructor
  · intro id v hv
    rw [ht] at hv
    obtain hold | hnew := List.mem_append.mp hv
    · rw [hl]; exact hs.known id v hold
    · exact nomatch hes _ hnew
  · intro k e he huniq
    rw [hl] at he huniq
    rw [hcb]
    exact hs.latest k e he huniq

/-- Callbacks of the trace belong to registered lines, so one that no registered line has was never invoked. -/
theorem State.DeliveredInv.callbackLevels_nil (hs : s.DeliveredInv) {id : CallbackId} (hid : ∀ e ∈ s.lines, e.cb ≠ id) :
    callbackLevels id s.outTrace = [] := by
  have hnone : ∀ v, Event.cb id v ∉ s.outTrace := by
    intro v hv
    obtain ⟨e, he, hcb⟩ := hs.known id v hv
    exact hid e he hcb
  revert hnone
  induction s.outTrace with
  | nil => exact fun _ => rfl
  | cons e es ih =>
    intro hnone
    have hrest : ∀ v, Event.cb id v ∉ es := fun v hv => hnone v (List.mem_cons_of_mem e hv)
    cases e with
    | cb c v =>
      have hne : c ≠ id := by
        rintro rfl
        exact hnone v List.mem_cons_self
      rw [callbackLevels, if_neg hne, ih hrest]
    | w | send | tx => exact ih hrest

theorem State.DeliveredInv.register (hs : s.DeliveredInv) {e : LineEntry} (hl : t.lines = s.lines ++ [e])
    (ht : t.outTrace = s.outTrace) : t.DeliveredInv := by
  have hnew : (s.lines ++ [e])[s.lines.length]? = some e := List.getElem?_concat_length
  have hold {j : Nat} {e' : LineEntry} (hj : s.lines[j]? = some e') : (s.lines ++ [e])[j]? = some e' :=
    (List.getElem?_append_left (List.getElem?_eq_some_iff.mp hj).1).trans hj
  constructor
  · intro id v hv
    rw [ht] at hv
    obtain ⟨e', he', hcb⟩ := hs.known id v hv
    exact ⟨e', by rw [hl]; exact List.mem_append_left _ he', hcb⟩
  · intro k e' he' huniq
    rw [hl] at he' huniq
    rw [ht]
    by_cases hk : k < s.lines.length
    · rw [List.getElem?_append_left hk] at he'
      exact hs.latest k e' he' fun j e'' hj => huniq j e'' (hold hj)
    · left
      apply hs.callbackLevels_nil
      intro e'' he'' hcb
      obtain ⟨j, hj⟩ := List.mem_iff_getElem?.mp he''
      have hjk := huniq j e'' (hold hj) hcb
      exact hk (hjk ▸ (List.getElem?_eq_some_iff.mp hj).1)

theorem State.DeliveredInv.settle (hs : s.DeliveredInv) (hl : t.lines = s.lines.map (LineEntry.settled s.gpioIn))
    (ht : t.outTrace = s.outTrace ++ settleEvents s.gpioIn s.lines) : t.DeliveredInv := by
  constructor
  · intro id v hv
    rw [ht] at hv
    have hreg : ∃ e ∈ s.lines, e.cb = id := by
      obtain hold | hnew := List.mem_append.mp hv
      · exact hs.known id v hold
      · obtain ⟨e, he, hcb, -⟩ := mem_settleEvents_iff.mp hnew
        exact ⟨e, he, hcb⟩
    obtain ⟨e, he, hcb⟩ := hreg
    exact ⟨e.settled s.gpioIn, by rw [hl]; exact List.mem_map_of_mem he, hcb⟩
  · intro k e' he' huniq
    rw [hl, List.getElem?_map] at he'
    obtain ⟨e, he, rfl⟩ := Option.map_eq_some_iff.mp he'
    have huniq' : ∀ (j : Nat) (e'' : LineEntry), s.lines[j]? = some e'' → e''.cb = e.cb → j = k := by
      intro j e'' hj hcb
      exact huniq j (e''.settled s.gpioIn) (by rw [hl, List.getElem?_map, hj]; rfl) hcb
    change callbackLevels e.cb _ = [] ∨ lastLevel (callbackLevels e.cb _) = some (liveLevel s.gpioIn e)
    rw [ht, callbackLevels_append, callbackLevels_settleEvents_unique he huniq']
    split_ifs with hch
    · exact .inr (lastLevel_snoc _ _)
    · rw [List.append_nil, not_not.mp hch]
      exact hs.latest k e he huniq'

theorem exec_keeps_deliveredInv (i : Instr) (s t : State) (h : exec i s = .next t) (hs : s.DeliveredInv) : t.DeliveredInv := by
  obtain ⟨hl, ha⟩ | ⟨e, hl, ht⟩ | ⟨hl, ht⟩ := exec_lines_cases h
  · exact hs.of_no_callback hl ha
  · exact hs.register hl ht
  · exact hs.settle hl ht

end Lines

/-- Settles O14: of what an operation can do to the registered lines, only a settle delivers, and it delivers the level it stores. -/
theorem stepKeepsDelivered : Obligations.StepKeepsDelivered :=
  fun _ _ hs h => step_keeps (P := State.DeliveredInv) (fun _ _ _ _ hs => ⟨hs.known, hs.latest⟩) exec_keeps_deliveredInv h hs

/-! ## Reset (R221, R222) -/

section Reset

variable (p : Launch)

theorem atReset_lines : (State.atReset p).lines = [] := rfl

theorem atReset_registry : (State.atReset p).registry = [] := rfl

/-- After reset no peripheral is busy (R34, R221). -/
theorem atReset_idle {h : SpiHandle} {q : SpiPeriph} (hq : (State.atReset p).periph h = some q) : q.busy = false := by
  unfold State.periph at hq
  split at hq
  · exact nomatch hq
  · change (Vector.replicate 3 SpiPeriph.idle)[_]? = some q at hq
    rw [Vector.getElem?_replicate] at hq
    split_ifs at hq
    obtain rfl := Option.some.inj hq
    rfl

theorem atReset_inv (hp : p.Wf) : (State.atReset p).Inv where
  debounce := {
    count_le := Nat.zero_le _
    mask_eq := rfl
    pin_oneHot := by rw [atReset_lines]; exact fun _ he => nomatch he
    cnt_lt := fun h => nomatch h
    cnt_zero := fun _ => ⟨rfl, rfl⟩
    tim_bound := fun h => nomatch h
    period_range := fun h => nomatch h
    armed_mask := fun h => nomatch h }
  shift := {
    entry_ok := by rw [atReset_registry]; exact fun _ he => nomatch he
    busy_left := fun _ _ hq hbusy => nomatch hbusy.symm.trans (atReset_idle p hq) }
  form := ⟨hp.mem_wf, hp.gpioIn_wf, rfl, hp.cascades_wf⟩

theorem atReset_deliveredInv : (State.atReset p).DeliveredInv where
  known := fun _ _ hv => nomatch hv
  latest := fun _ _ _ _ => .inl rfl

theorem atReset_drivenByTrace : (State.atReset p).DrivenByTrace := fun _ => rfl

end Reset

/-- Settles O11: at reset both tables and the trace are empty and no line is driven. -/
theorem resetMeetsInvariants : Obligations.ResetMeetsInvariants :=
  ⟨fun p hp => ⟨atReset_inv p hp, atReset_deliveredInv p, atReset_drivenByTrace p⟩, rfl, rfl, fun _ hc => nomatch hc⟩

/-! ## What stays as it was -/

/-- Settles O46: the configuration stands in the frame of each unit and of each move of the environment. -/
theorem configurationIsNeverWritten : Obligations.ConfigurationIsNeverWritten := by
  intro i s t h
  obtain hi | hi | ⟨ln, v, rfl⟩ | ⟨a, v, rfl⟩ := unit_cases i
  · constructor <;> rw [exec_debounce_frame hi h]
  · constructor <;> rw [exec_shift_frame hi h]
  all_goals
    obtain rfl := Host.Outcome.next.inj h
    exact ⟨rfl, rfl, rfl⟩

/-- Settles O47: both units leave memory and input levels, and a move of the environment writes its own address or line. -/
theorem onlyTheEnvironmentWritesMemoryAndInputs : Obligations.OnlyTheEnvironmentWritesMemoryAndInputs := by
  intro i s t h
  have unit (hi : ofDebounceUnit i = true ∨ ofShiftUnit i = true) :
      (∀ a, memRead t.mem a = memRead s.mem a) ∧ ∀ ln, gpioRead t.gpioIn ln = gpioRead s.gpioIn ln := by
    obtain ⟨hmem, hin⟩ := exec_mem_gpioIn hi h
    exact ⟨fun _ => by rw [hmem], fun _ => by rw [hin]⟩
  obtain hi | hi | ⟨ln, v, rfl⟩ | ⟨a, v, rfl⟩ := unit_cases i
  · exact ⟨fun a _ => (unit (.inl hi)).1 a, fun ln _ => (unit (.inl hi)).2 ln⟩
  · exact ⟨fun a _ => (unit (.inr hi)).1 a, fun ln _ => (unit (.inr hi)).2 ln⟩
  · obtain rfl := Host.Outcome.next.inj h
    refine ⟨fun _ _ => rfl, fun l hl => (gpioRead_setInput s ln l v).trans (if_neg ?_)⟩
    rintro rfl
    exact hl v rfl
  · obtain rfl := Host.Outcome.next.inj h
    refine ⟨fun b hb => (memRead_memWrite s a b v).trans (if_neg ?_), fun _ _ => rfl⟩
    rintro rfl
    exact hb v rfl

section Registered

variable {i : Instr} {s t : State}

/-- The timer and the period of an initialised block stay (R23 to R25). -/
theorem exec_keeps_binding (h : exec i s = .next t) (hinit : s.dbInit = true) :
    t.dbInit = true ∧ t.dbTim = s.dbTim ∧ t.dbPeriod = s.dbPeriod := by
  cases i with
  | dbInit tim ms =>
    obtain ⟨st, v, rfl⟩ | ⟨hnot, -⟩ := exec_dbInit_cases h
    · exact ⟨hinit, rfl, rfl⟩
    · exact nomatch hinit.symm.trans hnot
  | dbRegister port pin level cb => obtain ⟨st, v, rfl⟩ | rfl := exec_dbRegister_inv h <;> exact ⟨hinit, rfl, rfl⟩
  | dbEdge mask => obtain ⟨st, v, rfl⟩ | rfl := exec_dbEdge_inv h <;> exact ⟨hinit, rfl, rfl⟩
  | dbSettle =>
    obtain rfl := Host.Outcome.next.inj h
    exact ⟨by simpa using hinit, by simp, by simp⟩
  | timTick =>
    obtain rfl | ⟨n, rfl⟩ | rfl := exec_timTick_inv h
    · exact ⟨hinit, rfl, rfl⟩
    · exact ⟨hinit, rfl, rfl⟩
    · exact ⟨by simpa using hinit, by simp, by simp⟩
  | srCreateGpio | srCreateSpi | srWrite | srComplete | spiByte | spiFail =>
    have hsame := sameDebounce_of_shift rfl h
    exact ⟨hsame.dbInit.trans hinit, hsame.dbTim, hsame.dbPeriod⟩
  | envLevel | envStore =>
    obtain rfl := Host.Outcome.next.inj h
    exact ⟨hinit, rfl, rfl⟩

/-- A registered line stays, but for the level delivered last (R28, R30). -/
theorem exec_keeps_line (h : exec i s = .next t) {k : Nat} {e : LineEntry} (he : s.lines[k]? = some e) :
    ∃ v, t.lines[k]? = some { e with lastState := v } ∧
      (v ≠ e.lastState → ∃ es, t.outTrace = s.outTrace ++ es ∧ Event.cb e.cb v ∈ es) := by
  obtain ⟨hl, -⟩ | ⟨e', hl, -⟩ | ⟨hl, ht⟩ := exec_lines_cases h
  · exact ⟨e.lastState, by rw [hl, he], fun hne => absurd rfl hne⟩
  · refine ⟨e.lastState, ?_, fun hne => absurd rfl hne⟩
    rw [hl, List.getElem?_append_left (List.getElem?_eq_some_iff.mp he).1, he]
  · refine ⟨liveLevel s.gpioIn e, by rw [hl, List.getElem?_map, he]; rfl, fun hne => ⟨_, ht, ?_⟩⟩
    exact mem_settleEvents_iff.mpr ⟨e, List.mem_of_getElem? he, rfl, rfl, hne⟩

/-- The SPI registry only grows (R32, R33). -/
theorem exec_keeps_registry (h : exec i s = .next t) : s.registry <+: t.registry := by
  have same (hc : t.spiRegCount = s.spiRegCount) (hr : t.spiReg = s.spiReg) : s.registry <+: t.registry := by
    rw [registry_congr hc hr]
  cases i with
  | dbInit | dbRegister | dbEdge | dbSettle | timTick =>
    have hsame := sameShift_of_debounce rfl h
    exact same hsame.spiRegCount hsame.spiReg
  | srCreateGpio | envLevel | envStore =>
    obtain rfl := Host.Outcome.next.inj h
    exact same rfl rfl
  | srCreateSpi spi rclk =>
    obtain ⟨st, v, rfl⟩ | ⟨-, hlt, rfl⟩ := exec_srCreateSpi_cases h
    · exact same rfl rfl
    · exact ⟨_, (registry_appendSpiReg hlt _).symm⟩
  | srWrite inst addr len =>
    obtain rfl | ⟨srclk, rclk, ser, -, rfl⟩ | ⟨spi, rclk, st, v, -, rfl⟩ := exec_srWrite_inv h
    · exact same rfl rfl
    · exact same (by simp) (by simp)
    · obtain hsend | ⟨p, hsend⟩ := spiSend_snd ((s.gpioWrite rclk false).noteInst (.spiSw spi rclk)) spi addr len
      · exact same (by rw [hsend]; rfl) (by rw [hsend]; rfl)
      · exact same (by rw [hsend]; simp) (by rw [hsend]; simp)
  | srComplete spi =>
    obtain rfl := Host.Outcome.next.inj h
    exact same (by simp) (by simp)
  | spiByte spi =>
    obtain rfl | ⟨b, p, rfl | rfl⟩ := exec_spiByte_inv h
    · exact same rfl rfl
    · exact same (by simp) (by simp)
    · exact same (by simp) (by simp)
  | spiFail spi =>
    obtain rfl | ⟨p, rfl⟩ := exec_spiFail_inv h
    · exact same rfl rfl
    · exact same (by simp) (by simp)

end Registered

/-- Settles O52: the block's timer, its lines and the registry, each by its own lemma. -/
theorem registrationsStay : Obligations.RegistrationsStay :=
  fun _ _ _ h => ⟨exec_keeps_binding h, fun _ _ he => exec_keeps_line h he, exec_keeps_registry h⟩

/-! ## The debounce state machine (R21, R22, R125) -/

theorem debounceMode_armed_iff (s : State) : s.debounceMode = .armed ↔ s.timRun = true := by
  unfold State.debounceMode
  cases s.timRun <;> simp

/-- Which operations leave the timer running (R125). -/
theorem exec_timRun_iff {i : Instr} {s t : State} (hs : s.DebounceInv) (h : exec i s = .next t) :
    t.timRun = true ↔
      (∃ mask, i = .dbEdge mask ∧ mask &&& s.dbMask ≠ 0#16 ∧ s.dbInit = true) ∨
      (s.timRun = true ∧ i ≠ .dbSettle ∧ ¬ (i = .timTick ∧ s.timCnt + 1#20 = s.dbPeriod)) := by
  cases i with
  | dbInit tim ms =>
    obtain ⟨st, v, rfl⟩ | ⟨hnot, -, -, rfl⟩ := exec_dbInit_cases h
    · simp
    · have hidle := (hs.cnt_zero hnot).2
      simp [hidle]
  | dbRegister port pin level cb => obtain ⟨st, v, rfl⟩ | rfl := exec_dbRegister_inv h <;> simp
  | dbEdge mask =>
    obtain ⟨hmiss, st, v, rfl⟩ | ⟨hmask, hinit, rfl⟩ := exec_dbEdge_cases h
    · obtain hmask | hinit := hmiss
      · simp [hmask]
      · simp [hinit]
    · simp [hmask, hinit]
  | dbSettle =>
    obtain rfl := Host.Outcome.next.inj h
    simp
  | timTick =>
    obtain ⟨hrun, rfl⟩ | ⟨hrun, hnot, rfl⟩ | ⟨hrun, hlast, rfl⟩ := exec_timTick_cases h
    · simp [hrun]
    · simp [hrun, hnot]
    · simp [hlast]
  | srCreateGpio | srCreateSpi | srWrite | srComplete | spiByte | spiFail => simp [(sameDebounce_of_shift rfl h).timRun]
  | envLevel | envStore =>
    obtain rfl := Host.Outcome.next.inj h
    simp

/-- Settles O24: Armed is the running timer. -/
theorem armedExactlyByQualifyingEdges : Obligations.ArmedExactlyByQualifyingEdges := by
  intro i s t hs h
  rw [debounceMode_armed_iff, debounceMode_armed_iff]
  exact exec_timRun_iff hs h

/-! ## The result, the stream and the draws (R20, R38, R49)

A state with other contents of these three fields runs every operation in the same way, but for the two that ask a collaborator. -/

/-- The state with the three fields that are no state of the block replaced (log entries 1 to 3). -/
def State.withPorts (s : State) (r : Option Word64) (is : List Input) (d : Draws) : State :=
  { s with result := r, stim := is, draws := d }

section Ports

variable (s : State) (r : Option Word64) (is : List Input) (d : Draws)

/-! The fields and the tests that the operations read are those of the state. -/

theorem withPorts_dbInit : (s.withPorts r is d).dbInit = s.dbInit := rfl
theorem withPorts_dbMask : (s.withPorts r is d).dbMask = s.dbMask := rfl
theorem withPorts_dbCount : (s.withPorts r is d).dbCount = s.dbCount := rfl
theorem withPorts_dbPeriod : (s.withPorts r is d).dbPeriod = s.dbPeriod := rfl
theorem withPorts_timRun : (s.withPorts r is d).timRun = s.timRun := rfl
theorem withPorts_timCnt : (s.withPorts r is d).timCnt = s.timCnt := rfl
theorem withPorts_spiRegCount : (s.withPorts r is d).spiRegCount = s.spiRegCount := rfl
theorem withPorts_mem : (s.withPorts r is d).mem = s.mem := rfl
theorem withPorts_lineConfigured (port : PortNum) (pin : PinMask) :
    (s.withPorts r is d).lineConfigured port pin = s.lineConfigured port pin := rfl
theorem withPorts_spiCfgOf (spi : SpiHandle) : (s.withPorts r is d).spiCfgOf spi = s.spiCfgOf spi := rfl
theorem withPorts_periph (spi : SpiHandle) : (s.withPorts r is d).periph spi = s.periph spi := rfl

/-! The updates of the state are made in the same way. -/

theorem withPorts_timerCount (n : Ticks) : (s.withPorts r is d).timerCount n = (s.timerCount n).withPorts r is d := rfl
theorem withPorts_appendLine (e : LineEntry) : (s.withPorts r is d).appendLine e = (s.appendLine e).withPorts r is d := rfl
theorem withPorts_appendSpiReg (e : SpiRegEntry) : (s.withPorts r is d).appendSpiReg e = (s.appendSpiReg e).withPorts r is d := rfl

theorem withPorts_redrawFrom (n k : Nat) (cs : List Cascade) : redrawFrom (s.withPorts r is d) n k cs = redrawFrom s n k cs := by
  have hshares (c : Cascade) : (s.withPorts r is d).sharesLine c = s.sharesLine c := rfl
  induction cs generalizing k with
  | nil => rfl
  | cons c cs ih => rw [redrawFrom, redrawFrom, hshares, ih]

theorem withPorts_redrawShared : (s.withPorts r is d).redrawShared = s.redrawShared.withPorts r is d :=
  congrArg (fun cs => { s.withPorts r is d with cascades := cs }) (withPorts_redrawFrom s r is d _ 0 s.cascades)

theorem withPorts_noteInst (i : Inst) : (s.withPorts r is d).noteInst i = (s.noteInst i).withPorts r is d :=
  withPorts_redrawShared { s with cascades := s.cascades.map (Cascade.meetInst i) } r is d

theorem withPorts_gpioWrite (ln : LineId) (v : Level) :
    (s.withPorts r is d).gpioWrite ln v = (s.gpioWrite ln v).withPorts r is d := rfl

theorem withPorts_transmit (spi : SpiHandle) (b : Byte) :
    (s.withPorts r is d).transmit spi b = (s.transmit spi b).withPorts r is d :=
  withPorts_redrawShared
    { s with outTrace := s.outTrace ++ [.tx spi b], cascades := s.cascades.map (Cascade.onTransmit spi b) } r is d

theorem withPorts_setPeriph (spi : SpiHandle) (p : SpiPeriph) :
    (s.withPorts r is d).setPeriph spi p = (s.setPeriph spi p).withPorts r is d := by
  unfold State.setPeriph
  split <;> rfl

theorem withPorts_performComplete (spi : SpiHandle) :
    (s.withPorts r is d).performComplete spi = (s.performComplete spi).withPorts r is d := by
  have howner : (s.withPorts r is d).owner spi = s.owner spi := owner_congr rfl rfl spi
  cases ho : s.owner spi with
  | none => rw [performComplete_none s spi ho, performComplete_none _ spi (howner.trans ho)]
  | some e =>
    rw [performComplete_some s spi e ho, performComplete_some _ spi e (howner.trans ho), withPorts_gpioWrite,
      withPorts_gpioWrite, withPorts_redrawShared]

theorem withPorts_clockBits (srclk ser : LineId) (bits : List Level) :
    bits.foldl (fun u v => u.clockBit srclk ser v) (s.withPorts r is d) =
      (bits.foldl (fun u v => u.clockBit srclk ser v) s).withPorts r is d := by
  induction bits generalizing s with
  | nil => rfl
  | cons b bits ih => exact ih (s.clockBit srclk ser b)

theorem withPorts_clockBytes (srclk ser : LineId) (n : Nat) (a : Addr) :
    State.clockBytes srclk ser n a (s.withPorts r is d) = (State.clockBytes srclk ser n a s).withPorts r is d := by
  induction n generalizing s a with
  | zero => rfl
  | succ n ih =>
    have hbyte : (s.withPorts r is d).clockByte srclk ser (memRead s.mem a) =
        (s.clockByte srclk ser (memRead s.mem a)).withPorts r is d := withPorts_clockBits s r is d srclk ser _
    exact (congrArg (State.clockBytes srclk ser n (a + 1#16)) hbyte).trans (ih _ _)

theorem withPorts_performSettle : (s.withPorts r is d).performSettle = s.performSettle.withPorts r is d := by
  have hline : (s.withPorts r is d).performSettle.line = s.performSettle.line := by
    apply Vector.toList_inj.mp
    apply List.ext_getElem?
    intro k
    rw [Vector.getElem?_toList, Vector.getElem?_toList]
    rw [performSettle_line, performSettle_line]
    rfl
  rw [performSettle_eq (s.withPorts r is d), hline, performSettle_eq s]
  rfl

/-- The SPI collaborator is asked for its answer and nothing else of the draws is read (R156). -/
theorem withPorts_spiSend (hd : d.spiSendErr = s.draws.spiSendErr) (spi : SpiHandle) (addr : Addr) (len : Len) :
    (s.withPorts r is d).spiSend spi addr len =
      ((s.spiSend spi addr len).1, (s.spiSend spi addr len).2.withPorts r is d) := by
  have hdraw : (s.withPorts r is d).spiSendDraw spi = s.spiSendDraw spi := by
    unfold State.spiSendDraw State.withPorts
    rw [hd]
  cases hp : s.periph spi with
  | none =>
    unfold State.spiSend
    rw [withPorts_periph, hp]
  | some p =>
    rw [spiSend_cases s spi addr len p hp, spiSend_cases _ spi addr len p ((withPorts_periph s r is d spi).trans hp), hdraw,
      withPorts_setPeriph]
    split_ifs <;> rfl

/-- The collaborators' answers that an operation asks for are the same in two draws (R38, R113, R156). -/
def Draws.agreeFor (i : Instr) (d e : Draws) : Prop :=
  (∀ tim ms, i = .dbInit tim ms → d.timCfgErr = e.timCfgErr) ∧ (∀ w a n, i = .srWrite w a n → d.spiSendErr = e.spiSendErr)

/-- No operation reads the result or the stream, nor of the draws more than the answer it asks for. -/
theorem afterOp_withPorts {i : Instr} (hd : d.agreeFor i s.draws) :
    afterOp i (s.withPorts r is d) = (afterOp i s).withPorts (afterOp i s).result is d := by
  obtain ⟨htim, hsend⟩ := hd
  cases i with
  | dbInit tim ms =>
    have hanswer : (s.withPorts r is d).timConfigure tim (periodOf ms) = s.timConfigure tim (periodOf ms) := htim tim ms rfl
    simp only [afterOp, exec, execDbInit, withPorts_dbInit, hanswer]
    split_ifs <;> rfl
  | dbRegister port pin level cb =>
    simp only [afterOp, exec, execDbRegister, withPorts_dbCount, withPorts_lineConfigured, withPorts_appendLine,
      withPorts_redrawShared]
    split_ifs <;> rfl
  | dbEdge mask =>
    simp only [afterOp, exec, execDbEdge]
    rw [withPorts_dbMask, withPorts_dbInit]
    split_ifs <;> rfl
  | dbSettle =>
    simp only [afterOp, exec, execDbSettle, withPorts_performSettle]
    rfl
  | timTick =>
    simp only [afterOp, exec, execTimTick, withPorts_timRun, withPorts_timCnt, withPorts_dbPeriod, withPorts_timerCount,
      withPorts_performSettle]
    split_ifs <;> rfl
  | srCreateGpio srclk rclk ser =>
    simp only [afterOp, exec, execSrCreateGpio, withPorts_noteInst]
    rfl
  | srCreateSpi spi rclk =>
    simp only [afterOp, exec, execSrCreateSpi, withPorts_spiRegCount, withPorts_spiCfgOf, withPorts_appendSpiReg,
      withPorts_noteInst]
    split_ifs <;> rfl
  | srWrite inst addr len =>
    simp only [afterOp, exec, execSrWrite]
    cases instOf inst with
    | none => rfl
    | some j =>
      cases j with
      | gpio srclk rclk ser =>
        simp only [withPorts_gpioWrite, withPorts_clockBytes, withPorts_noteInst]
        rfl
      | spiSw spi rclk =>
        have hask := withPorts_spiSend ((s.gpioWrite rclk false).noteInst (.spiSw spi rclk)) r is d (hsend _ _ _ rfl) spi addr len
        simp only [withPorts_gpioWrite, withPorts_noteInst, hask]
        split_ifs <;> rfl
  | srComplete spi =>
    simp only [afterOp, exec, execSrComplete, withPorts_performComplete]
    rfl
  | spiByte spi =>
    simp only [afterOp, exec, execSpiByte, withPorts_periph, withPorts_mem, withPorts_transmit]
    cases s.periph spi with
    | none => rfl
    | some p =>
      simp only [withPorts_setPeriph, withPorts_performComplete]
      split_ifs <;> rfl
  | spiFail spi =>
    simp only [afterOp, exec, execSpiFail, withPorts_periph]
    cases s.periph spi with
    | none => rfl
    | some p =>
      simp only [withPorts_setPeriph]
      split_ifs <;> rfl
  | envLevel | envStore => rfl

end Ports

/-- No operation changes the stream or the draws (R38, R49). -/
theorem exec_stim_draws {i : Instr} {s t : State} (h : exec i s = .next t) : t.stim = s.stim ∧ t.draws = s.draws := by
  obtain hi | hi | ⟨ln, v, rfl⟩ | ⟨a, v, rfl⟩ := unit_cases i
  · constructor <;> rw [exec_debounce_frame hi h]
  · constructor <;> rw [exec_shift_frame hi h]
  all_goals
    obtain rfl := Host.Outcome.next.inj h
    exact ⟨rfl, rfl⟩

theorem exec_withPorts {i : Instr} {s t : State} {d : Draws} (h : exec i s = .next t) (hd : d.agreeFor i s.draws)
    (r : Option Word64) (is : List Input) : exec i (s.withPorts r is d) = .next (t.withPorts t.result is d) := by
  rw [exec_eq_next, afterOp_withPorts s r is d hd, afterOp_of_exec h]

/-- Settles O53: another result and another stream, with the draws of the step. -/
theorem resultAndStreamAreNotRead : Obligations.ResultAndStreamAreNotRead := by
  intro i s t r stim h
  obtain ⟨hstim, hdraws⟩ := exec_stim_draws h
  have ht : t.withPorts t.result stim s.draws = { t with stim := stim } := by rw [← hdraws]; rfl
  exact ⟨ht ▸ exec_withPorts h ⟨fun _ _ _ => rfl, fun _ _ _ _ => rfl⟩ r stim, hstim, hdraws⟩

/-- Settles O54: other draws, with the result and the stream of the step. -/
theorem onlyTwoOperationsReadTheDraws : Obligations.OnlyTwoOperationsReadTheDraws := by
  intro i s t d h hd
  have ht : t.withPorts t.result s.stim d = { t with draws := d } := by rw [← (exec_stim_draws h).1]; rfl
  exact ht ▸ exec_withPorts h hd s.result s.stim

end Sys2Proof.Machine
end

section
/-! Buffer memory (20_memory.md): words as bytes, and the two units commuting. -/

namespace Sys2Proof.Machine

/-! ## Words as bytes (R64) -/

/-- Eight consecutive bytes of a word, the highest first, are the word. -/
theorem append_byteOf (w : Word64) :
    byteOf w 7 ++ byteOf w 6 ++ byteOf w 5 ++ byteOf w 4 ++ byteOf w 3 ++ byteOf w 2 ++ byteOf w 1 ++ byteOf w 0 = w := by
  unfold byteOf
  iterate 7 rw [BitVec.extractLsb'_append_extractLsb'_eq_extractLsb' (by rfl)]
  exact BitVec.extractLsb'_eq_self

theorem takeWord_bytesOfWord_append (w : Word64) (rest : List Byte) : takeWord (bytesOfWord w ++ rest) = some (w, rest) :=
  congrArg (fun v => some (v, rest)) (append_byteOf w)

/-- The lowest byte of an encoded operation is its opcode (R80, R91). -/
theorem byteOf_zero_encode (i : Instr) : byteOf (encode i) 0 = i.op.code :=
  match i with
  | .dbInit tim ms => Laws.OpcodeByte.dbInit tim ms
  | .dbRegister port pin level cb => Laws.OpcodeByte.dbRegister port pin level cb
  | .dbEdge mask => Laws.OpcodeByte.dbEdge mask
  | .dbSettle => Laws.OpcodeByte.dbSettle
  | .timTick => Laws.OpcodeByte.timTick
  | .srCreateGpio srclk rclk ser => Laws.OpcodeByte.srCreateGpio srclk rclk ser
  | .srCreateSpi spi rclk => Laws.OpcodeByte.srCreateSpi spi rclk
  | .srWrite inst addr len => Laws.OpcodeByte.srWrite inst addr len
  | .srComplete spi => Laws.OpcodeByte.srComplete spi
  | .spiByte spi => Laws.OpcodeByte.spiByte spi
  | .spiFail spi => Laws.OpcodeByte.spiFail spi
  | .envLevel line level => Laws.OpcodeByte.envLevel line level
  | .envStore addr val => Laws.OpcodeByte.envStore addr val

/-- Settles O5: the bytes put together again, the order they are listed in, and the opcode in the first of them. -/
theorem wordsAreLittleEndian : Obligations.WordsAreLittleEndian :=
  ⟨takeWord_bytesOfWord_append, fun _ => rfl, fun i => congrArg some (byteOf_zero_encode i)⟩

/-! ## Two runs of one operation in step (R70, R236)

An operation of a unit reads that unit's state and a part of what surrounds it. Two states that agree on all this are taken by the
operation to two states that agree on it again, and the operation appends the same events to both traces. -/

/-- The trace of `s` goes on from `a` as that of `t` goes on from `b`. -/
def TracesInStep (a b : List Event) (s t : State) : Prop := ∃ es, s.outTrace = a ++ es ∧ t.outTrace = b ++ es

/-- Two states that the Debounce unit cannot tell apart, their traces in step since `a` and `b`. -/
structure DebounceInStep (a b : List Event) (s t : State) : Prop extends SameDebounce s t where
  gpioIn : t.gpioIn = s.gpioIn
  extiImr : t.extiImr = s.extiImr
  extiPortsel : t.extiPortsel = s.extiPortsel
  draws : t.draws = s.draws
  trace : TracesInStep a b s t

/-- Two states that the Shift-register unit cannot tell apart, their traces in step since `a` and `b`. -/
structure ShiftInStep (a b : List Event) (s t : State) : Prop extends SameShift s t where
  gpioOut : t.gpioOut = s.gpioOut
  mem : t.mem = s.mem
  spiCfg : t.spiCfg = s.spiCfg
  draws : t.draws = s.draws
  trace : TracesInStep a b s t

section InStep

variable {a b : List Event} {s t : State} {i : Instr}

theorem TracesInStep.start : TracesInStep s.outTrace t.outTrace s t := ⟨[], by simp, by simp⟩

/-- The same events appended to two traces in step leave them in step. -/
theorem TracesInStep.append {s' t' : State} (h : TracesInStep a b s t) {es : List Event} (hs : s'.outTrace = s.outTrace ++ es)
    (ht : t'.outTrace = t.outTrace ++ es) : TracesInStep a b s' t' := by
  obtain ⟨fs, hfs, hft⟩ := h
  exact ⟨fs ++ es, by rw [hs, hfs, List.append_assoc], by rw [ht, hft, List.append_assoc]⟩

/-! ### The updates of the Debounce unit -/

theorem DebounceInStep.ret (h : DebounceInStep a b s t) (st : Status) (v : ResultValue) :
    DebounceInStep a b (s.ret st v) (t.ret st v) := { h with }

theorem DebounceInStep.done (h : DebounceInStep a b s t) : DebounceInStep a b s.done t.done := { h with }

theorem DebounceInStep.redrawShared (h : DebounceInStep a b s t) : DebounceInStep a b s.redrawShared t.redrawShared := { h with }

theorem DebounceInStep.timerCount (h : DebounceInStep a b s t) (n : Ticks) :
    DebounceInStep a b (s.timerCount n) (t.timerCount n) := { h with timCnt := rfl }

theorem DebounceInStep.timerStop (h : DebounceInStep a b s t) : DebounceInStep a b s.timerStop t.timerStop :=
  { h with timRun := rfl }

theorem DebounceInStep.timerStart (h : DebounceInStep a b s t) : DebounceInStep a b s.timerStart t.timerStart :=
  { h with timRun := rfl }

theorem DebounceInStep.appendLine (h : DebounceInStep a b s t) (e : LineEntry) :
    DebounceInStep a b (s.appendLine e) (t.appendLine e) :=
  { h with
    dbCount := congrArg (· + 1#5) h.dbCount
    dbMask := congrArg (· ||| e.pin) h.dbMask
    line := by simp [h.line, h.dbCount] }

theorem DebounceInStep.performSettle (h : DebounceInStep a b s t) : DebounceInStep a b s.performSettle t.performSettle := by
  have hline : t.performSettle.line = s.performSettle.line := by
    apply Vector.toList_inj.mp
    apply List.ext_getElem?
    intro k
    simp only [Vector.getElem?_toList, performSettle_line, h.dbCount, h.line, h.gpioIn]
  have hevents : settleEvents t.gpioIn t.lines = settleEvents s.gpioIn s.lines := by
    rw [h.gpioIn, lines_congr h.dbCount h.line]
  rw [performSettle_eq s, performSettle_eq t, hline, hevents]
  exact { h with timRun := rfl, line := rfl, trace := h.trace.append rfl rfl }

/-- A Debounce operation does not tell apart two states that agree on the unit and on what it reads. -/
theorem DebounceInStep.afterOp (h : DebounceInStep a b s t) (hi : ofDebounceUnit i = true) :
    DebounceInStep a b (afterOp i s) (afterOp i t) := by
  cases i with
  | dbInit tim ms =>
    have hanswer : t.timConfigure tim (periodOf ms) = s.timConfigure tim (periodOf ms) := congrArg Draws.timCfgErr h.draws
    simp only [Machine.afterOp, exec, execDbInit, h.dbInit, hanswer]
    split_ifs
    iterate 4 exact h.ret _ _
    exact { h with dbTim := rfl, dbPeriod := rfl, timRun := rfl, timCnt := rfl, dbInit := rfl }
  | dbRegister port pin level cb =>
    have hconf : t.lineConfigured port pin = s.lineConfigured port pin := by
      unfold State.lineConfigured; rw [h.extiImr, h.extiPortsel]
    simp only [Machine.afterOp, exec, execDbRegister, h.dbCount, hconf]
    split_ifs
    iterate 3 exact h.ret _ _
    exact (h.appendLine _).redrawShared.ret _ _
  | dbEdge mask =>
    simp only [Machine.afterOp, exec, execDbEdge, h.dbMask, h.dbInit]
    split_ifs
    iterate 2 exact h.ret _ _
    exact ((h.timerStop.timerCount _).timerStart).ret _ _
  | dbSettle => exact h.performSettle.done
  | timTick =>
    simp only [Machine.afterOp, exec, execTimTick, h.timRun, h.timCnt, h.dbPeriod]
    split_ifs
    · exact (h.timerCount _).performSettle.done
    · exact (h.timerCount _).done
    · exact h.done
  | srCreateGpio | srCreateSpi | srWrite | srComplete | spiByte | spiFail | envLevel | envStore => cases hi

/-! ### The updates of the Shift-register unit -/

theorem ShiftInStep.ret (h : ShiftInStep a b s t) (st : Status) (v : ResultValue) :
    ShiftInStep a b (s.ret st v) (t.ret st v) := { h with }

theorem ShiftInStep.done (h : ShiftInStep a b s t) : ShiftInStep a b s.done t.done := { h with }

theorem ShiftInStep.redrawShared (h : ShiftInStep a b s t) : ShiftInStep a b s.redrawShared t.redrawShared := { h with }

theorem ShiftInStep.noteInst (h : ShiftInStep a b s t) (j : Inst) : ShiftInStep a b (s.noteInst j) (t.noteInst j) := { h with }

theorem ShiftInStep.gpioWrite (h : ShiftInStep a b s t) (ln : LineId) (v : Level) :
    ShiftInStep a b (s.gpioWrite ln v) (t.gpioWrite ln v) :=
  { h with
    gpioOut := congrArg (fun out => Sparse.put none out ln.toNat (some v)) h.gpioOut
    trace := h.trace.append rfl rfl }

theorem ShiftInStep.transmit (h : ShiftInStep a b s t) (spi : SpiHandle) (v : Byte) :
    ShiftInStep a b (s.transmit spi v) (t.transmit spi v) := { h with trace := h.trace.append rfl rfl }

theorem ShiftInStep.sendEvent (h : ShiftInStep a b s t) (spi : SpiHandle) (addr : Addr) (len : Len) :
    ShiftInStep a b (s.sendEvent spi addr len) (t.sendEvent spi addr len) := { h with trace := h.trace.append rfl rfl }

theorem ShiftInStep.appendSpiReg (h : ShiftInStep a b s t) (e : SpiRegEntry) :
    ShiftInStep a b (s.appendSpiReg e) (t.appendSpiReg e) :=
  { h with
    spiRegCount := congrArg (· + 1#2) h.spiRegCount
    spiReg := by simp [h.spiReg, h.spiRegCount] }

theorem ShiftInStep.setPeriph (h : ShiftInStep a b s t) (spi : SpiHandle) (p : SpiPeriph) :
    ShiftInStep a b (s.setPeriph spi p) (t.setPeriph spi p) := by
  unfold State.setPeriph
  split
  · exact h
  · exact { h with spi := by simp only [h.spi] }

theorem ShiftInStep.performComplete (h : ShiftInStep a b s t) (spi : SpiHandle) :
    ShiftInStep a b (s.performComplete spi) (t.performComplete spi) := by
  have howner : t.owner spi = s.owner spi := owner_congr h.spiRegCount h.spiReg spi
  cases ho : s.owner spi with
  | none =>
    rw [performComplete_none s spi ho, performComplete_none t spi (howner.trans ho)]
    exact h
  | some e =>
    rw [performComplete_some s spi e ho, performComplete_some t spi e (howner.trans ho)]
    exact ((h.gpioWrite _ _).gpioWrite _ _).redrawShared

theorem ShiftInStep.clockBits (h : ShiftInStep a b s t) (srclk ser : LineId) (bits : List Level) :
    ShiftInStep a b (bits.foldl (fun u v => u.clockBit srclk ser v) s) (bits.foldl (fun u v => u.clockBit srclk ser v) t) := by
  induction bits generalizing s t with
  | nil => exact h
  | cons v bits ih => exact ih (((h.gpioWrite _ _).gpioWrite _ _).gpioWrite _ _)

theorem ShiftInStep.clockBytes (h : ShiftInStep a b s t) (srclk ser : LineId) (n : Nat) (addr : Addr) :
    ShiftInStep a b (State.clockBytes srclk ser n addr s) (State.clockBytes srclk ser n addr t) := by
  induction n generalizing s t addr with
  | zero => exact h
  | succ n ih =>
    unfold State.clockBytes
    rw [h.mem]
    exact ih (h.clockBits srclk ser _) _

/-- `SpiSend` answers the same in two states that the unit cannot tell apart, and does the same. -/
theorem ShiftInStep.spiSend (h : ShiftInStep a b s t) (spi : SpiHandle) (addr : Addr) (len : Len) :
    (t.spiSend spi addr len).1 = (s.spiSend spi addr len).1 ∧
      ShiftInStep a b (s.spiSend spi addr len).2 (t.spiSend spi addr len).2 := by
  have hdraw : t.spiSendDraw spi = s.spiSendDraw spi := by unfold State.spiSendDraw; rw [h.draws]
  unfold State.spiSend
  rw [periph_congr h.spi, hdraw]
  split
  · exact ⟨rfl, h⟩
  · split_ifs
    iterate 3 exact ⟨rfl, h⟩
    exact ⟨rfl, (h.setPeriph _ _).sendEvent _ _ _⟩

/-- A Shift-register operation does not tell apart two states that agree on the unit and on what it reads. -/
theorem ShiftInStep.afterOp (h : ShiftInStep a b s t) (hi : ofShiftUnit i = true) :
    ShiftInStep a b (afterOp i s) (afterOp i t) := by
  cases i with
  | srCreateGpio srclk rclk ser => exact (h.noteInst _).ret _ _
  | srCreateSpi spi rclk =>
    have hcfg : t.spiCfgOf spi = s.spiCfgOf spi := by unfold State.spiCfgOf; rw [h.spiCfg]
    simp only [Machine.afterOp, exec, execSrCreateSpi, h.spiRegCount, hcfg]
    split_ifs
    iterate 3 exact h.ret _ _
    exact ((h.appendSpiReg _).noteInst _).ret _ _
  | srWrite inst addr len =>
    simp only [Machine.afterOp, exec, execSrWrite]
    cases instOf inst with
    | none => exact h.ret _ _
    | some j =>
      cases j with
      | gpio srclk rclk ser => exact ((((h.gpioWrite _ _).clockBytes _ _ _ _).gpioWrite _ _).noteInst _).ret _ _
      | spiSw spi rclk =>
        obtain ⟨hcode, hsent⟩ := ((h.gpioWrite rclk false).noteInst (.spiSw spi rclk)).spiSend spi addr len
        simp only [hcode]
        split_ifs
        · exact hsent.ret _ _
        · exact hsent.ret _ _
  | srComplete spi => exact (h.performComplete spi).done
  | spiByte spi =>
    simp only [Machine.afterOp, exec, execSpiByte, periph_congr h.spi, h.mem]
    cases s.periph spi with
    | none => exact h.done
    | some p =>
      dsimp only
      split_ifs
      · exact h.done
      · exact (((h.transmit _ _).setPeriph _ _).performComplete _).done
      · exact ((h.transmit _ _).setPeriph _ _).done
  | spiFail spi =>
    simp only [Machine.afterOp, exec, execSpiFail, periph_congr h.spi]
    cases s.periph spi with
    | none => exact h.done
    | some p =>
      dsimp only
      split_ifs
      · exact h.done
      · exact (h.setPeriph _ _).done
  | dbInit | dbRegister | dbEdge | dbSettle | timTick | envLevel | envStore => cases hi

/-! ### The two units one after the other -/

/-- The Shift-register unit cannot tell that an operation of the Debounce unit has run. -/
theorem shiftInStep_of_debounce (hi : ofDebounceUnit i = true) (h : exec i s = .next t) :
    ShiftInStep s.outTrace t.outTrace s t where
  toSameShift := sameShift_of_debounce hi h
  gpioOut := by rw [exec_debounce_frame hi h]
  mem := by rw [exec_debounce_frame hi h]
  spiCfg := by rw [exec_debounce_frame hi h]
  draws := by rw [exec_debounce_frame hi h]
  trace := .start

/-- The Debounce unit cannot tell that an operation of the Shift-register unit has run. -/
theorem debounceInStep_of_shift (hi : ofShiftUnit i = true) (h : exec i s = .next t) :
    DebounceInStep s.outTrace t.outTrace s t where
  toSameDebounce := sameDebounce_of_shift hi h
  gpioIn := by rw [exec_shift_frame hi h]
  extiImr := by rw [exec_shift_frame hi h]
  extiPortsel := by rw [exec_shift_frame hi h]
  draws := by rw [exec_shift_frame hi h]
  trace := .start

/-- The events of the Debounce unit drive no line. -/
theorem lineDrives_of_debounce (hi : ofDebounceUnit i = true) (h : exec i s = .next t) (ln : LineId) :
    lineDrives ln t.outTrace = lineDrives ln s.outTrace := by
  obtain ⟨es, ht, hes⟩ := exec_appends h
  have hno : ∀ e ∈ es, ∀ l v, e ≠ .w l v := by
    rintro e he l v rfl
    cases (hes _ he).isCallback hi
  rw [ht, lineDrives_append, lineDrives_of_no_drive ln hno, List.append_nil]

theorem SameDebounce.of_common {u : State} (ht : SameDebounce s t) (hu : SameDebounce s u) : SameDebounce t u where
  dbInit := hu.dbInit.trans ht.dbInit.symm
  dbTim := hu.dbTim.trans ht.dbTim.symm
  dbPeriod := hu.dbPeriod.trans ht.dbPeriod.symm
  timRun := hu.timRun.trans ht.timRun.symm
  timCnt := hu.timCnt.trans ht.timCnt.symm
  dbCount := hu.dbCount.trans ht.dbCount.symm
  dbMask := hu.dbMask.trans ht.dbMask.symm
  line := hu.line.trans ht.line.symm

theorem SameShift.of_common {u : State} (ht : SameShift s t) (hu : SameShift s u) : SameShift t u where
  spiRegCount := hu.spiRegCount.trans ht.spiRegCount.symm
  spiReg := hu.spiReg.trans ht.spiReg.symm
  spi := hu.spi.trans ht.spi.symm

/-- Traces in step since two traces with the same projection have the same projection. -/
theorem TracesInStep.project {α : Type} {f : List Event → List α} (happ : ∀ es fs, f (es ++ fs) = f es ++ f fs)
    (h : TracesInStep a b s t) (hab : f b = f a) : f t.outTrace = f s.outTrace := by
  obtain ⟨es, hs, ht⟩ := h
  rw [hs, ht, happ, happ, hab]

end InStep

/-- Settles O49: each unit runs in step whether or not the other has run before it, and leaves what is not its own as it was. -/
theorem stepsOfTheTwoUnitsCommute : Obligations.StepsOfTheTwoUnitsCommute := by
  intro i j s hi hj
  have hsi := exec_eq_next i s
  have hsj := exec_eq_next j s
  have ht := exec_eq_next j (afterOp i s)
  have hu := exec_eq_next i (afterOp j s)
  have hdeb_t := debounceInStep_of_shift hj ht
  have hdeb_u := (debounceInStep_of_shift hj hsj).afterOp hi
  have hshift_t := (shiftInStep_of_debounce hi hsi).afterOp hj
  have hshift_u := shiftInStep_of_debounce hi hu
  refine ⟨_, _, _, _, hsi, ht, hsj, hu, hdeb_t.toSameDebounce.of_common hdeb_u.toSameDebounce,
    hshift_t.toSameShift.of_common hshift_u.toSameShift, hshift_u.gpioOut.trans hshift_t.gpioOut.symm,
    hdeb_u.gpioIn.trans hdeb_t.gpioIn.symm, hshift_u.mem.trans hshift_t.mem.symm, fun ln => ?drives, fun id => ?callbacks,
    fun h => ?periph⟩
  case drives =>
    have hproj := hshift_t.trace.project (lineDrives_append ln) (lineDrives_of_debounce hi hsi ln)
    exact (lineDrives_of_debounce hi hu ln).trans hproj.symm
  case callbacks =>
    have hproj := hdeb_u.trace.project (callbackLevels_append id) (callbackLevels_of_shift hj hsj id)
    exact hproj.trans (callbackLevels_of_shift hj ht id).symm
  case periph =>
    have hproj := hshift_t.trace.project (periphEvents_append h) (periphEvents_of_debounce hi hsi h)
    exact (periphEvents_of_debounce hi hu h).trans hproj.symm

end Sys2Proof.Machine
end

section
/-! The encoding (30_encoding.md): what the decoder answers by the opcode byte, the layout of each format, the two round trips and the
illegal words; then descriptors taken apart, and the result word of each operation. -/

namespace Sys2Proof.Machine

/-! ## The opcode map (R91) -/

/-- The opcode byte of an operation stands for that operation alone. -/
@[simp] theorem ofCode_code (o : Op) : Op.ofCode o.code = some o := by cases o <;> rfl

theorem ofCode_eq_none {b : Byte} (h : ∀ o : Op, b ≠ o.code) : Op.ofCode b = none := by
  unfold Op.ofCode
  rw [List.find?_eq_none]
  intro o _ ho
  exact h o (eq_of_beq ho).symm

theorem opCode_injective : Function.Injective Op.code := fun a b h => by
  have hab : Op.ofCode a.code = Op.ofCode b.code := congrArg Op.ofCode h
  simpa using hab

/-- The fields of a word are those of the operation they are read for. -/
@[simp] theorem op_extract (w : Word64) (o : Op) : (o.extract w).op = o := by cases o <;> rfl

/-- The one field value that is not legal: a `DB_REGISTER` pin that is not one-hot (R98 (c), R99). -/
theorem wellFormed_extract_eq_false_iff (w : Word64) (o : Op) :
    wellFormed (o.extract w) = false ↔ o = .dbRegister ∧ popcount (w.extractLsb' 16 16) ≠ 1 := by
  cases o with
  | dbRegister => simp [Op.extract, wellFormed, field]
  | _ => simp [Op.extract, wellFormed]

/-! ## What the decoder answers (R100) -/

section Decoder

variable {w : Word64} {o : Op}

theorem decode_of_unassigned (h : ∀ o : Op, field w 0 8 ≠ o.code) : decode w = .error .unassignedOpcode := by
  unfold decode
  rw [ofCode_eq_none h]

theorem decode_of_code (hcode : field w 0 8 = o.code) :
    decode w =
      if w &&& o.format.mbz ≠ 0#64 then .error .mustBeZeroSet
      else if wellFormed (o.extract w) then .ok (o.extract w)
      else .error .pinNotOneHot := by
  unfold decode
  rw [hcode, ofCode_code]

/-- A word decodes to an operation exactly when it has the operation's opcode, no must-be-zero bit of its format and its fields, and
these are legal. -/
theorem decode_eq_ok_iff {i : Instr} :
    decode w = .ok i ↔
      field w 0 8 = i.op.code ∧ w &&& i.op.format.mbz = 0#64 ∧ i.op.extract w = i ∧ WellFormed i := by
  constructor
  · intro h
    by_cases hassigned : ∃ o : Op, field w 0 8 = o.code
    · obtain ⟨o, hcode⟩ := hassigned
      rw [decode_of_code hcode] at h
      split_ifs at h with hmbz hwf
      obtain rfl := Except.ok.inj h
      rw [op_extract]
      exact ⟨hcode, not_not.mp hmbz, rfl, hwf⟩
    · rw [decode_of_unassigned (not_exists.mp hassigned)] at h
      cases h
  · rintro ⟨hcode, hmbz, hfields, hwf⟩
    rw [decode_of_code hcode, if_neg (not_not.mpr hmbz), hfields, if_pos hwf]

/-- A word with an assigned opcode is illegal exactly for a must-be-zero bit or for its pin (R98 (b), (c)). -/
theorem decode_error_of_code_iff (hcode : field w 0 8 = o.code) :
    (∃ e, decode w = .error e) ↔
      w &&& o.format.mbz ≠ 0#64 ∨ (o = .dbRegister ∧ popcount (w.extractLsb' 16 16) ≠ 1) := by
  rw [decode_of_code hcode, ← wellFormed_extract_eq_false_iff]
  split_ifs with hmbz hwf
  · simp [hmbz]
  · simp [hmbz, hwf]
  · simp [hwf]

/-- R98: which words are illegal. -/
theorem decode_error_iff (w : Word64) :
    (∃ e, decode w = .error e) ↔
      ((∀ o : Op, field w 0 8 ≠ o.code) ∨ (∃ o : Op, field w 0 8 = o.code ∧ w &&& o.format.mbz ≠ 0#64) ∨
        (field w 0 8 = 0x02#8 ∧ popcount (w.extractLsb' 16 16) ≠ 1)) := by
  by_cases hassigned : ∃ o : Op, field w 0 8 = o.code
  · obtain ⟨o, hcode⟩ := hassigned
    have hsame (o' : Op) : field w 0 8 = o'.code ↔ o = o' := by rw [hcode, opCode_injective.eq_iff]
    have hreg : field w 0 8 = 0x02#8 ↔ o = .dbRegister := hsame .dbRegister
    rw [decode_error_of_code_iff hcode, hreg]
    simp [hsame]
  · have hnone := not_exists.mp hassigned
    exact iff_of_true ⟨_, decode_of_unassigned hnone⟩ (.inl hnone)

end Decoder

/-! ## The layout of the formats (R81 to R90)

A word with no must-be-zero bit of a format is its fields one beside another above the opcode byte `b`, with 0 in the places between
them: each 0 is the field of the word at its place, and adjoining fields are one field, up to the whole word. -/

section Layout

variable {w : Word64} {b : Byte}

/-- A field that a mask covers is 0 in a word with no bit of the mask. -/
theorem field_eq_zero {m : Word64} (lo len : Nat) (h : w &&& m = 0#64) (hm : m.extractLsb' lo len = BitVec.allOnes len) :
    0#len = field w lo len := by
  have hfield := congrArg (BitVec.extractLsb' lo len) h
  rwa [BitVec.extractLsb'_and, hm, BitVec.and_allOnes, BitVec.extractLsb'_zero, eq_comm] at hfield

/-- A bit read as a level is a field of one bit (R7). -/
theorem ofBool_getLsbD (w : Word64) (lo : Nat) : BitVec.ofBool (w.getLsbD lo) = field w lo 1 := by
  apply BitVec.eq_of_getLsbD_eq
  intro i hi
  obtain rfl : i = 0 := by omega
  simp [field]

/-- A field beside the one below it. -/
theorem field_append {hi lo m : Nat} (n : Nat) (h : hi = lo + m) : field w hi n ++ field w lo m = field w lo (n + m) :=
  BitVec.extractLsb'_append_extractLsb'_eq_extractLsb' h

theorem field_whole : field w 0 64 = w := BitVec.extractLsb'_eq_self

theorem layout_Z (hcode : field w 0 8 = b) (hmbz : w &&& Format.Z.mbz = 0#64) : 0#56 ++ b = w := by
  rw [← hcode, field_eq_zero 8 56 hmbz (by decide)]
  simp (disch := omega) only [field_append]
  exact field_whole

theorem layout_T (hcode : field w 0 8 = b) (hmbz : w &&& Format.T.mbz = 0#64) :
    0#32 ++ field w 16 16 ++ 0#6 ++ field w 8 2 ++ b = w := by
  rw [← hcode, field_eq_zero 32 32 hmbz (by decide), field_eq_zero 10 6 hmbz (by decide)]
  simp (disch := omega) only [field_append]
  exact field_whole

theorem layout_R (hcode : field w 0 8 = b) (hmbz : w &&& Format.R.mbz = 0#64) :
    0#16 ++ field w 40 8 ++ 0#7 ++ BitVec.ofBool (w.getLsbD 32) ++ field w 16 16 ++ 0#4 ++ field w 8 4 ++ b = w := by
  rw [← hcode, field_eq_zero 48 16 hmbz (by decide), field_eq_zero 33 7 hmbz (by decide), field_eq_zero 12 4 hmbz (by decide),
    ofBool_getLsbD]
  simp (disch := omega) only [field_append]
  exact field_whole

theorem layout_M (hcode : field w 0 8 = b) (hmbz : w &&& Format.M.mbz = 0#64) : 0#32 ++ field w 16 16 ++ 0#8 ++ b = w := by
  rw [← hcode, field_eq_zero 32 32 hmbz (by decide), field_eq_zero 8 8 hmbz (by decide)]
  simp (disch := omega) only [field_append]
  exact field_whole

theorem layout_G (hcode : field w 0 8 = b) (hmbz : w &&& Format.G.mbz = 0#64) :
    0#32 ++ field w 24 8 ++ field w 16 8 ++ field w 8 8 ++ b = w := by
  rw [← hcode, field_eq_zero 32 32 hmbz (by decide)]
  simp (disch := omega) only [field_append]
  exact field_whole

theorem layout_S (hcode : field w 0 8 = b) (hmbz : w &&& Format.S.mbz = 0#64) :
    0#40 ++ field w 16 8 ++ 0#6 ++ field w 8 2 ++ b = w := by
  rw [← hcode, field_eq_zero 24 40 hmbz (by decide), field_eq_zero 10 6 hmbz (by decide)]
  simp (disch := omega) only [field_append]
  exact field_whole

theorem layout_W (hcode : field w 0 8 = b) : field w 32 32 ++ field w 16 16 ++ field w 8 8 ++ b = w := by
  rw [← hcode]
  simp (disch := omega) only [field_append]
  exact field_whole

theorem layout_H (hcode : field w 0 8 = b) (hmbz : w &&& Format.H.mbz = 0#64) : 0#54 ++ field w 8 2 ++ b = w := by
  rw [← hcode, field_eq_zero 10 54 hmbz (by decide)]
  simp (disch := omega) only [field_append]
  exact field_whole

theorem layout_L (hcode : field w 0 8 = b) (hmbz : w &&& Format.L.mbz = 0#64) :
    0#47 ++ BitVec.ofBool (w.getLsbD 16) ++ field w 8 8 ++ b = w := by
  rw [← hcode, field_eq_zero 17 47 hmbz (by decide), ofBool_getLsbD]
  simp (disch := omega) only [field_append]
  exact field_whole

theorem layout_B (hcode : field w 0 8 = b) (hmbz : w &&& Format.B.mbz = 0#64) :
    0#32 ++ field w 16 16 ++ field w 8 8 ++ b = w := by
  rw [← hcode, field_eq_zero 32 32 hmbz (by decide)]
  simp (disch := omega) only [field_append]
  exact field_whole

end Layout

/-! ## The two round trips (R98, R100) -/

/-- A word with an operation's opcode and no must-be-zero bit of its format is the encoding of the fields read from it. -/
theorem encode_extract {w : Word64} {o : Op} (hcode : field w 0 8 = o.code) (hmbz : w &&& o.format.mbz = 0#64) :
    encode (o.extract w) = w := by
  cases o with
  | dbInit => exact layout_T hcode hmbz
  | dbRegister => exact layout_R hcode hmbz
  | dbEdge => exact layout_M hcode hmbz
  | dbSettle | timTick => exact layout_Z hcode hmbz
  | srCreateGpio => exact layout_G hcode hmbz
  | srCreateSpi => exact layout_S hcode hmbz
  | srWrite => exact layout_W hcode
  | srComplete | spiByte | spiFail => exact layout_H hcode hmbz
  | envLevel => exact layout_L hcode hmbz
  | envStore => exact layout_B hcode hmbz

/-- The encoder sets no must-be-zero bit (R100). -/
theorem encode_and_mbz (i : Instr) : encode i &&& i.op.format.mbz = 0#64 :=
  match i with
  | .dbInit tim ms => Laws.MustBeZero.dbInit tim ms
  | .dbRegister port pin level cb => Laws.MustBeZero.dbRegister port pin level cb
  | .dbEdge mask => Laws.MustBeZero.dbEdge mask
  | .dbSettle => Laws.MustBeZero.dbSettle
  | .timTick => Laws.MustBeZero.timTick
  | .srCreateGpio srclk rclk ser => Laws.MustBeZero.srCreateGpio srclk rclk ser
  | .srCreateSpi spi rclk => Laws.MustBeZero.srCreateSpi spi rclk
  | .srWrite inst addr len => Laws.MustBeZero.srWrite inst addr len
  | .srComplete spi => Laws.MustBeZero.srComplete spi
  | .spiByte spi => Laws.MustBeZero.spiByte spi
  | .spiFail spi => Laws.MustBeZero.spiFail spi
  | .envLevel line level => Laws.MustBeZero.envLevel line level
  | .envStore addr val => Laws.MustBeZero.envStore addr val

/-- The bits of a concatenation from its low part on are those of its high part. -/
theorem getLsbD_append_high {u v k : Nat} (x : BitVec u) (y : BitVec v) (h : v ≤ k) : (x ++ y).getLsbD k = x.getLsbD (k - v) := by
  rw [BitVec.getLsbD_append, if_neg (Nat.not_lt.mpr h)]

theorem getLsbD_append_level {u : Nat} (x : BitVec u) (v : Level) : (x ++ BitVec.ofBool v).getLsbD 0 = v := by
  rw [BitVec.getLsbD_append, if_pos Nat.one_pos]
  cases v <;> rfl

/-- Each field stands whole at the place from which the decoder reads it: above the parts below it (R81 to R90). -/
theorem extract_encode (i : Instr) : i.op.extract (encode i) = i := by
  cases i <;>
    simp (disch := omega) only [Instr.op, Op.extract, encode, field, Laws.extractLsb'_append_high, Laws.extractLsb'_append_whole,
      BitVec.extractLsb'_eq_self, getLsbD_append_high, getLsbD_append_level, Nat.reduceSub]

/-- Settles O1: the opcode and the must-be-zero bits are the operation's, and each field is read back. -/
theorem decodeOfEncode : Obligations.DecodeOfEncode := fun i hwf =>
  decode_eq_ok_iff.mpr ⟨byteOf_zero_encode i, encode_and_mbz i, extract_encode i, hwf⟩

/-- Settles O2: the word is put together again from its fields. -/
theorem encodeOfDecode : Obligations.EncodeOfDecode := by
  intro w i h
  obtain ⟨hcode, hmbz, hfields, hwf⟩ := decode_eq_ok_iff.mp h
  have hword := encode_extract hcode hmbz
  rw [hfields] at hword
  exact ⟨hword, hwf⟩

/-- Settles O4, by running the decoder on the eight words. -/
theorem sampleWordsDecode : Obligations.SampleWordsDecode := by
  unfold Obligations.SampleWordsDecode
  decide

/-! ## Illegal words (R98, R195) -/

theorem illegal_eq (s : State) : s.illegal = { s with result := some 0x000000000000007F#64 } := by
  unfold State.illegal State.ret
  rw [resultWord_illegal]

theorem step_of_illegal {s t : State} {w : Word64} {e : IllegalWord} (ht : s.takeWord = some (w, t)) (hd : decode w = .error e) :
    step s = .next t.illegal := by
  unfold step
  rw [ht]
  dsimp only
  rw [hd]

/-- Settles O3: which words are illegal, by their opcode; that every other word decodes; the step of an illegal one. -/
theorem illegalWordsAndTheirStep : Obligations.IllegalWordsAndTheirStep := by
  refine ⟨decode_error_iff, fun w => ?_, fun s inp rest e hs hd => ?_⟩
  · cases hw : decode w with
    | error e => exact .inl ⟨e, rfl⟩
    | ok i => exact .inr ⟨i, rfl, fun j hj => (Except.ok.inj hj).symm⟩
  · rw [step_of_illegal (takeWord_of_stim_cons hs) hd, illegal_eq]

/-- Settles O18: the pin is looked at before anything else. -/
theorem dbRegisterOfABadPin : Obligations.DbRegisterOfABadPin := by
  intro port pin level cb s hpin
  have hexec : exec (.dbRegister port pin level cb) s = .next s.illegal := congrArg Host.Outcome.next (if_pos hpin)
  rw [hexec, illegal_eq]

/-! ## The answers of an operation (R96, R97) -/

/-- The state carries a result word with one of the statuses `sts`, whose value is 0 with every failure but `PERIPH_ERROR`. -/
def State.Answers (t : State) (sts : List Status) : Prop :=
  ∃ st v, t.result = some (resultWord st v) ∧ st ∈ sts ∧ (st ≠ .ok → st ≠ .periphError → v = 0#32)

section Answers

variable {s t : State} {sts : List Status}

/-! The three ways in which an operation answers: `OK` or a collaborator's code with a value, any other status with value 0. -/

theorem answers_ok (v : ResultValue) (h : .ok ∈ sts) : (s.ret .ok v).Answers sts :=
  ⟨_, _, rfl, h, fun hne => absurd rfl hne⟩

theorem answers_periphError (e : ErrCode) (h : .periphError ∈ sts) : (s.retPeriphError e).Answers sts :=
  ⟨_, _, rfl, h, fun _ hne => absurd rfl hne⟩

theorem answers_zero {st : Status} (h : st ∈ sts) : (s.ret st 0#32).Answers sts := ⟨_, _, rfl, h, fun _ _ => rfl⟩

theorem State.Answers.mono {sts' : List Status} (h : t.Answers sts) (hsub : sts ⊆ sts') : t.Answers sts' := by
  obtain ⟨st, v, hr, hst, hv⟩ := h
  exact ⟨st, v, hr, hsub hst, hv⟩

/-- The result word of an answer by its parts (R96). -/
theorem State.Answers.parts (h : t.Answers sts) :
    ∃ r, t.result = some r ∧ r.extractLsb' 8 24 = 0#24 ∧
      (resultStatus r ≠ 0x00#8 → resultStatus r ≠ 0x04#8 → resultValue r = 0#32) ∧
      resultStatus r ∈ sts.map Status.code := by
  obtain ⟨st, v, hr, hst, hv⟩ := h
  refine ⟨resultWord st v, hr, resultWord_middle st v, ?_, ?_⟩
  · rw [resultStatus_resultWord, resultValue_resultWord]
    intro hok hperiph
    exact hv (fun h => hok (h ▸ rfl)) (fun h => hperiph (h ▸ rfl))
  · rw [resultStatus_resultWord]
    exact List.mem_map_of_mem hst

/-! What each command and `DB_EDGE` can answer, in the order of its tests. -/

theorem exec_dbInit_answers {tim : TimerHandle} {ms : Millis} (h : exec (.dbInit tim ms) s = .next t) :
    t.Answers [.ok, .invalidArg, .periphError] := by
  obtain rfl := Host.Outcome.next.inj h
  split_ifs
  · exact answers_ok _ (by decide)
  · exact answers_zero (by decide)
  · exact answers_periphError _ (by decide)
  · exact answers_periphError _ (by decide)
  · exact answers_ok _ (by decide)

theorem exec_dbRegister_answers {port : PortNum} {pin : PinMask} {level : Level} {cb : CallbackId} (hpin : popcount pin = 1)
    (h : exec (.dbRegister port pin level cb) s = .next t) : t.Answers [.ok, .capacity, .misconfig] := by
  obtain rfl := Host.Outcome.next.inj h
  split_ifs with hbad
  · exact absurd hpin hbad
  · exact answers_zero (by decide)
  · exact answers_zero (by decide)
  · exact answers_ok _ (by decide)

theorem exec_dbEdge_answers {mask : PinMask} (h : exec (.dbEdge mask) s = .next t) : t.Answers [.ok, .invalidArg] := by
  obtain rfl := Host.Outcome.next.inj h
  split_ifs
  · exact answers_ok _ (by decide)
  · exact answers_zero (by decide)
  · exact answers_ok _ (by decide)

theorem exec_srCreateGpio_answers {srclk rclk ser : LineId} (h : exec (.srCreateGpio srclk rclk ser) s = .next t) :
    t.Answers [.ok] := by
  obtain rfl := Host.Outcome.next.inj h
  exact answers_ok _ (by decide)

theorem exec_srCreateSpi_answers {spi : SpiHandle} {rclk : LineId} (h : exec (.srCreateSpi spi rclk) s = .next t) :
    t.Answers [.ok, .capacity, .misconfig, .invalidArg] := by
  obtain rfl := Host.Outcome.next.inj h
  split_ifs
  · exact answers_zero (by decide)
  · exact answers_zero (by decide)
  · exact answers_zero (by decide)
  · exact answers_ok _ (by decide)

/-- The descriptor decides between `INVALID_ARG` and the other two answers (R94, R145). -/
theorem exec_srWrite_none {d : Desc} (hd : instOf d = none) (addr : Addr) (len : Len) (s : State) :
    exec (.srWrite d addr len) s = .next (s.ret .invalidArg 0#32) := by
  simp only [exec, execSrWrite, hd]

theorem exec_srWrite_some_answers {d : Desc} {j : Inst} {addr : Addr} {len : Len} (hd : instOf d = some j)
    (h : exec (.srWrite d addr len) s = .next t) : t.Answers [.ok, .periphError] := by
  simp only [exec, execSrWrite, hd] at h
  cases j with
  | gpio srclk rclk ser =>
    obtain rfl := Host.Outcome.next.inj h
    exact answers_ok _ (by decide)
  | spiSw spi rclk =>
    obtain rfl := Host.Outcome.next.inj h
    dsimp only
    split_ifs
    · exact answers_periphError _ (by decide)
    · exact answers_ok _ (by decide)

theorem exec_srWrite_answers {d : Desc} {addr : Addr} {len : Len} (h : exec (.srWrite d addr len) s = .next t) :
    t.Answers [.ok, .invalidArg, .periphError] := by
  cases hd : instOf d with
  | none =>
    rw [exec_srWrite_none hd] at h
    obtain rfl := Host.Outcome.next.inj h
    exact answers_zero (by decide)
  | some j => exact (exec_srWrite_some_answers hd h).mono (by decide)

/-- The handlers, the agent's steps and the environment's moves end without a result word (R91, R96). -/
theorem exec_result_none {i : Instr} (hi : returnsResult i = false) (h : exec i s = .next t) : t.result = none := by
  cases i with
  | dbInit | dbRegister | dbEdge | srCreateGpio | srCreateSpi | srWrite => cases hi
  | dbSettle | srComplete | envLevel | envStore =>
    obtain rfl := Host.Outcome.next.inj h
    rfl
  | timTick => obtain rfl | ⟨n, rfl⟩ | rfl := exec_timTick_inv h <;> rfl
  | spiByte => obtain rfl | ⟨b, p, rfl | rfl⟩ := exec_spiByte_inv h <;> rfl
  | spiFail => obtain rfl | ⟨p, rfl⟩ := exec_spiFail_inv h <;> rfl

end Answers

/-- Settles O51: each operation that answers by the statuses of its rule, the others without a result word. -/
theorem resultsByOperation : Obligations.ResultsByOperation := by
  intro i s t hwf h
  refine ⟨fun hi => exec_result_none hi h, fun hi => ?_⟩
  cases i with
  | dbInit tim ms => exact (exec_dbInit_answers h).parts
  | dbRegister port pin level cb => exact (exec_dbRegister_answers (eq_of_beq hwf) h).parts
  | dbEdge mask => exact (exec_dbEdge_answers h).parts
  | srCreateGpio srclk rclk ser => exact (exec_srCreateGpio_answers h).parts
  | srCreateSpi spi rclk => exact (exec_srCreateSpi_answers h).parts
  | srWrite inst addr len => exact (exec_srWrite_answers h).parts
  | dbSettle | timTick | srComplete | spiByte | spiFail | envLevel | envStore => cases hi

/-! ## Descriptors (R93, R94) -/

theorem descMode_eq_gpio_iff (d : Desc) : descMode d = .gpio ↔ d.extractLsb' 0 2 = 1#2 := by
  unfold descMode
  split_ifs with hnone hgpio
  · simp [hnone]
  · simp [hgpio]
  · simp [hgpio]
  · simp [hgpio]

theorem descMode_eq_spiSw_iff (d : Desc) : descMode d = .spiSw ↔ d.extractLsb' 0 2 = 2#2 := by
  unfold descMode
  split_ifs with hnone hgpio hspi
  · simp [hnone]
  · simp [hgpio]
  · simp [hspi]
  · simp [hspi]

/-- The bits of R94 as the fields of R93. -/
theorem descWellFormed_iff (d : Desc) :
    DescWellFormed d ↔ d ≠ nullDesc ∧ descMbz d = 0#4 ∧
      ((descMode d = .gpio ∧ descSpi d = 0#2) ∨
        (descMode d = .spiSw ∧ descSpi d ≠ 0#2 ∧ descSrclk d = 0#8 ∧ descSer d = 0#8)) := by
  rw [descMode_eq_gpio_iff, descMode_eq_spiSw_iff]
  rfl

/-- A descriptor is taken apart exactly when it is well-formed (R94). -/
theorem instOf_eq_none_iff (d : Desc) : instOf d = none ↔ ¬ DescWellFormed d := by
  rw [descWellFormed_iff]
  unfold instOf
  by_cases hnull : d = nullDesc
  · simp [hnull]
  by_cases hmbz : descMbz d = 0#4
  · cases hm : descMode d with
    | none | reserved => simp [hnull, hmbz]
    | gpio | spiSw => simp [hnull, hmbz]
  · simp [hnull, hmbz]

/-- A descriptor with a mode is not the null one. -/
theorem ne_zero_of_mode {d : Desc} {m : BitVec 2} (hd : d.extractLsb' 0 2 = m) (hm : m ≠ 0#2) : d ≠ 0#32 := by
  rintro rfl
  exact hm (hd.symm.trans BitVec.extractLsb'_zero)

/-- The descriptors that the two creations build are well-formed (R141, R142). -/
theorem descWellFormed_gpio (srclk rclk ser : LineId) : DescWellFormed (ser ++ rclk ++ srclk ++ 0x01#8) := by
  have hmode : (ser ++ rclk ++ srclk ++ 0x01#8).extractLsb' 0 2 = 1#2 := Laws.extractLsb'_append_low _ _ 0 2 (by decide)
  have hspi : (ser ++ rclk ++ srclk ++ 0x01#8).extractLsb' 2 2 = 0#2 := Laws.extractLsb'_append_low _ _ 2 2 (by decide)
  have hmbz : (ser ++ rclk ++ srclk ++ 0x01#8).extractLsb' 4 4 = 0#4 := Laws.extractLsb'_append_low _ _ 4 4 (by decide)
  exact ⟨ne_zero_of_mode hmode (by decide), hmbz, .inl ⟨hmode, hspi⟩⟩

theorem descWellFormed_spiSw {h : SpiHandle} (hne : h ≠ 0#2) (rclk : LineId) :
    DescWellFormed (0#8 ++ rclk ++ 0#8 ++ 0#4 ++ h ++ 0b10#2) := by
  have hmode : (0#8 ++ rclk ++ 0#8 ++ 0#4 ++ h ++ 0b10#2).extractLsb' 0 2 = 2#2 := Laws.extractLsb'_append_whole _ _
  refine ⟨ne_zero_of_mode hmode (by decide), ?mbz, .inr ⟨hmode, ?spi, ?srclk, ?ser⟩⟩
  all_goals
    simp (disch := omega) only [Laws.extractLsb'_append_high, Laws.extractLsb'_append_whole, Nat.reduceSub,
      BitVec.extractLsb'_eq_self]
  exact hne

/-- Settles O28: `SR_WRITE` takes the descriptor apart, and that fails exactly for an ill-formed one. -/
theorem illFormedDescriptorsAreRejected : Obligations.IllFormedDescriptorsAreRejected := by
  refine ⟨fun d addr len s hd => ?_, fun d addr len s hd => ?_, descWellFormed_gpio, fun h rclk hne => descWellFormed_spiSw hne rclk⟩
  · rw [exec_srWrite_none ((instOf_eq_none_iff d).mpr hd), ← resultWord_invalidArg]
    rfl
  · obtain ⟨j, hj⟩ := Option.ne_none_iff_exists'.mp (fun hnone => (instOf_eq_none_iff d).mp hnone hd)
    obtain ⟨r, hr, -, -, hst⟩ := (exec_srWrite_some_answers hj (exec_eq_next (.srWrite d addr len) s)).parts
    refine ⟨_, r, exec_eq_next _ s, hr, fun hbad => ?_⟩
    rw [hbad] at hst
    exact absurd hst (by decide)

end Sys2Proof.Machine
end

section
/-! The Debounce unit (40_debounce.md): the outcome of each of its operations, one-hot pins, and when the settle comes. -/

namespace Sys2Proof.Machine

/-! ## The step that ends with a result word (R8, R96) -/

theorem State.ret_eq (s : State) {st : Status} {v : ResultValue} {w : Word64} (hw : resultWord st v = w) :
    s.ret st v = { s with result := some w } := by
  rw [← hw]
  rfl

/-- Settles O16: the tests of `DB_INIT` in their order, each with its answer. -/
theorem dbInitOutcome : Obligations.DbInitOutcome := by
  refine ⟨fun tim ms s => ?_, periodOf_toNat⟩
  have hdraw : s.timConfigure tim (periodOf ms) = s.draws.timCfgErr := rfl
  refine congrArg Host.Outcome.next ?_
  rw [hdraw]
  split_ifs with hinit htim hms herr
  · exact s.ret_eq resultWord_ok
  · exact s.ret_eq resultWord_invalidArg
  · exact s.ret_eq resultWord_peError
  · exact s.ret_eq (resultWord_periphError _)
  · exact State.ret_eq _ resultWord_ok

/-- Settles O19: the filter, then the initialisation, then the timer rearmed. -/
theorem dbEdgeOutcome : Obligations.DbEdgeOutcome := by
  intro mask s
  refine congrArg Host.Outcome.next ?_
  split_ifs with hmask hinit
  · exact s.ret_eq resultWord_ok
  · exact s.ret_eq resultWord_invalidArg
  · exact State.ret_eq _ resultWord_ok

/-! ## One-hot pins (R7, R114) -/

section OneHot

variable {v : PinMask}

theorem getLsbD_of_onesBelow_eq_zero {n : Nat} (h : onesBelow v n = 0) : ∀ j < n, v.getLsbD j = false := by
  induction n with
  | zero => exact fun j hj => absurd hj (Nat.not_lt_zero j)
  | succ n ih =>
    obtain ⟨hlow, htop⟩ := Nat.add_eq_zero_iff.mp h
    intro j hj
    obtain hlt | rfl := Nat.lt_succ_iff_lt_or_eq.mp hj
    · exact ih hlow j hlt
    · exact Bool.toNat_eq_zero.mp htop

/-- The position of the one bit that is 1. -/
theorem exists_bit_of_onesBelow_eq_one {n : Nat} (h : onesBelow v n = 1) :
    ∃ k < n, ∀ j < n, v.getLsbD j = decide (k = j) := by
  induction n with
  | zero => exact nomatch h
  | succ n ih =>
    unfold onesBelow at h
    cases htop : v.getLsbD n with
    | true =>
      rw [htop] at h
      have hlow := getLsbD_of_onesBelow_eq_zero (Nat.succ.inj h)
      refine ⟨n, n.lt_succ_self, fun j hj => ?_⟩
      obtain hlt | rfl := Nat.lt_succ_iff_lt_or_eq.mp hj
      · rw [hlow j hlt, decide_eq_false hlt.ne']
      · rw [htop, decide_eq_true rfl]
    | false =>
      rw [htop] at h
      obtain ⟨k, hk, hbits⟩ := ih h
      refine ⟨k, Nat.lt_succ_of_lt hk, fun j hj => ?_⟩
      obtain hlt | rfl := Nat.lt_succ_iff_lt_or_eq.mp hj
      · exact hbits j hlt
      · rw [htop, decide_eq_false hk.ne]

theorem popcount_oneHot : ∀ k : PinIndex, popcount (1#16 <<< k.toNat) = 1 := by decide

theorem ctz_oneHot : ∀ k : PinIndex, ctz (1#16 <<< k.toNat) = k := by decide

theorem popcount_eq_one_iff (v : PinMask) : popcount v = 1 ↔ ∃ k : PinIndex, v = 1#16 <<< k.toNat := by
  constructor
  · intro h
    obtain ⟨k, hk, hbits⟩ := exists_bit_of_onesBelow_eq_one h
    refine ⟨BitVec.ofNat 4 k, ?_⟩
    rw [BitVec.toNat_ofNat, Nat.mod_eq_of_lt hk]
    apply BitVec.eq_of_getLsbD_eq
    intro j hj
    rw [hbits j hj, ← BitVec.twoPow_eq, BitVec.getLsbD_twoPow, decide_eq_true hk, Bool.true_and]
  · rintro ⟨k, rfl⟩
    exact popcount_oneHot k

end OneHot

/-! ## Registration (R114, R115) -/

theorem dbCapacity_le_iff {s : State} (hle : s.dbCount.toNat ≤ 16) :
    Config.dbCapacity ≤ s.dbCount.toNat ↔ s.dbCount = 16#5 := by
  unfold Config.dbCapacity
  bv_omega

/-- The registration check on a one-hot pin reads the interrupt of its index (R115). -/
theorem lineConfigured_oneHot_eq_false_iff (s : State) (port : PortNum) (k : PinIndex) :
    s.lineConfigured port (1#16 <<< k.toNat) = false ↔
      s.extiImr.getLsbD k.toNat = false ∨ s.extiPortsel[k.toNat]? ≠ some port := by
  unfold State.lineConfigured
  rw [ctz_oneHot, Bool.and_eq_false_iff, decide_eq_false_iff_not]

/-- Settles O17: a one-hot pin passes the decoder's test, so the capacity, the check and the new entry are left. -/
theorem dbRegisterOutcome : Obligations.DbRegisterOutcome := by
  refine ⟨fun port k level cb s hle => ⟨_, congrArg Host.Outcome.next (if_neg (not_not.mpr (popcount_oneHot k))), ?_⟩,
    popcount_eq_one_iff⟩
  simp only [dbCapacity_le_iff hle, lineConfigured_oneHot_eq_false_iff]
  split_ifs with hfull hmis
  · exact s.ret_eq resultWord_capacity
  · exact s.ret_eq resultWord_misconfig
  · exact State.ret_eq _ (resultWord_okValue _)

/-! ## The settle and the tick (R120, R126) -/

/-- Settles O20: the scan as the laws of the settle handler say it. -/
theorem dbSettleOutcome : Obligations.DbSettleOutcome := fun s =>
  ⟨s.performSettle.done, rfl, congrArg State.done (performSettle_eq s), performSettle_line s⟩

section Tick

variable {s : State}

theorem exec_timTick_of_stopped (hrun : s.timRun = false) : exec .timTick s = .next s.done := by
  simp only [exec, execTimTick, hrun, Bool.false_eq_true, if_false]

theorem exec_timTick_of_counting (hrun : s.timRun = true) (hnot : s.timCnt + 1#20 ≠ s.dbPeriod) :
    exec .timTick s = .next (s.timerCount (s.timCnt + 1#20)).done := by
  simp only [exec, execTimTick, if_pos hrun, if_neg hnot]

theorem exec_timTick_of_expiring (hrun : s.timRun = true) (hlast : s.timCnt + 1#20 = s.dbPeriod) :
    exec .timTick s = .next (s.timerCount 0#20).performSettle.done := by
  simp only [exec, execTimTick, if_pos hrun, if_pos hlast]

end Tick

/-- Settles O21: the timer stopped, counting, or at its period. -/
theorem timTickOutcome : Obligations.TimTickOutcome := by
  refine fun s => ⟨exec_timTick_of_stopped, exec_timTick_of_counting, fun hrun hlast => ?_⟩
  exact ⟨_, exec_timTick_of_expiring hrun hlast, rfl, by simp, by simp⟩

/-! ## Runs of operations -/

section Runs

variable {s t : State}

theorem runOps_cons {i : Instr} (h : exec i s = .next t) (is : List Instr) : runOps (i :: is) s = runOps is t := by
  rw [runOps, h]

theorem runOps_singleton (i : Instr) (s : State) : runOps [i] s = exec i s := by
  rw [exec_eq_next, runOps_cons (exec_eq_next i s), runOps]

theorem runOps_append {is : List Instr} (h : runOps is s = .next t) (js : List Instr) :
    runOps (is ++ js) s = runOps js t := by
  induction is generalizing s with
  | nil =>
    obtain rfl := Host.Outcome.next.inj h
    rfl
  | cons i is ih =>
    rw [runOps_cons (exec_eq_next i s)] at h
    exact (runOps_cons (exec_eq_next i s) (is ++ js)).trans (ih h)

/-- Waiting one tick longer. -/
theorem runOps_pseudoWait_succ {n : Nat} (h : runOps (pseudoWait n) s = .next t) :
    runOps (pseudoWait (n + 1)) s = exec .timTick t := by
  have hsnoc : pseudoWait (n + 1) = pseudoWait n ++ [.timTick] := List.replicate_succ'
  rw [hsnoc, runOps_append h, runOps_singleton]

end Runs

/-! ## The settle after one period (R127) -/

section OnePeriod

variable {s : State}

/-- The state after `n` ticks fewer than the period (R126). -/
def State.ticked (s : State) (n : Nat) : State :=
  { s with timCnt := BitVec.ofNat 20 n, result := if n = 0 then s.result else none }

theorem ticked_zero (hcnt : s.timCnt = 0#20) : s.ticked 0 = s := by
  unfold State.ticked
  rw [if_pos rfl, ← hcnt]

/-- The tick after `n` reaches the period exactly when it is the last one of the period. -/
theorem ticked_timCnt_add_one_eq_iff {n : Nat} (hn : n < s.dbPeriod.toNat) :
    (s.ticked n).timCnt + 1#20 = (s.ticked n).dbPeriod ↔ n + 1 = s.dbPeriod.toNat := by
  have hp := s.dbPeriod.isLt
  change BitVec.ofNat 20 n + 1#20 = s.dbPeriod ↔ _
  bv_omega

/-- Fewer ticks than the period only count. -/
theorem runOps_pseudoWait_of_lt (hrun : s.timRun = true) (hcnt : s.timCnt = 0#20) {n : Nat} (hn : n < s.dbPeriod.toNat) :
    runOps (pseudoWait n) s = .next (s.ticked n) := by
  induction n with
  | zero =>
    rw [ticked_zero hcnt]
    rfl
  | succ n ih =>
    have hlt := Nat.lt_of_succ_lt hn
    have hnot := mt (ticked_timCnt_add_one_eq_iff hlt).mp hn.ne
    have hcount : (s.ticked n).timCnt + 1#20 = BitVec.ofNat 20 (n + 1) := (BitVec.ofNat_add n 1).symm
    rw [runOps_pseudoWait_succ (ih hlt), exec_timTick_of_counting (s := s.ticked n) hrun hnot, hcount]
    rfl

/-- The result that stands before an operation has no part in it (R20). -/
theorem exec_with_result (i : Instr) (s : State) (r : Option Word64) : exec i { s with result := r } = exec i s := by
  obtain ⟨hexec, hstim, -⟩ := resultAndStreamAreNotRead i s (afterOp i s) r s.stim (exec_eq_next i s)
  rw [exec_eq_next i s]
  refine hexec.trans ?_
  rw [← hstim]

/-- The last tick of the period is the settle. -/
theorem runOps_pseudoWait_period (hrun : s.timRun = true) (hcnt : s.timCnt = 0#20) {n : Nat} (hn : n + 1 = s.dbPeriod.toNat) :
    runOps (pseudoWait (n + 1)) s = exec .dbSettle s := by
  have hlt : n < s.dbPeriod.toNat := hn ▸ n.lt_succ_self
  have hreload : (s.ticked n).timerCount 0#20 = { s with result := (s.ticked n).result } := by
    rw [← hcnt]
    rfl
  calc runOps (pseudoWait (n + 1)) s
      = exec .timTick (s.ticked n) := runOps_pseudoWait_succ (runOps_pseudoWait_of_lt hrun hcnt hlt)
    _ = exec .dbSettle ((s.ticked n).timerCount 0#20) :=
        exec_timTick_of_expiring hrun ((ticked_timCnt_add_one_eq_iff hlt).mpr hn)
    _ = exec .dbSettle s := by rw [hreload, exec_with_result]

end OnePeriod

/-- Settles O22: the ticks before the last only count, by induction, and the last one finds the count at the period. -/
theorem settleAfterExactlyOnePeriod : Obligations.SettleAfterExactlyOnePeriod := by
  intro s hrun hcnt hpos
  refine ⟨fun n hn => runOps_pseudoWait_of_lt hrun hcnt hn, ?_⟩
  obtain ⟨n, hn⟩ := Nat.exists_eq_add_of_le' hpos
  rw [hn]
  exact runOps_pseudoWait_period hrun hcnt hn.symm

/-! ## The settle held off (R118, R127) -/

section HeldOff

variable {i : Instr} {s t u : State}

/-- From `s` to `t` an initialised block has kept its period and its running timer, and has invoked no callback. -/
structure HeldOff (s t : State) : Prop where
  dbInit : t.dbInit = true
  timRun : t.timRun = true
  dbPeriod : t.dbPeriod = s.dbPeriod
  callbacks : ∀ id, callbackLevels id t.outTrace = callbackLevels id s.outTrace

theorem HeldOff.refl (hinit : s.dbInit = true) (hrun : s.timRun = true) : HeldOff s s := ⟨hinit, hrun, rfl, fun _ => rfl⟩

theorem HeldOff.trans (hst : HeldOff s t) (htu : HeldOff t u) : HeldOff s u where
  dbInit := htu.dbInit
  timRun := htu.timRun
  dbPeriod := htu.dbPeriod.trans hst.dbPeriod
  callbacks := fun id => (htu.callbacks id).trans (hst.callbacks id)

/-- An operation that neither settles nor ticks invokes no callback (R11, R120, R126). -/
theorem callbackLevels_of_ne (h : exec i s = .next t) (hsettle : i ≠ .dbSettle) (htick : i ≠ .timTick) (id : CallbackId) :
    callbackLevels id t.outTrace = callbackLevels id s.outTrace := by
  obtain ⟨es, ht, hes⟩ := exec_appends h
  have hnone : ∀ e ∈ es, e.isCallback = false := by
    intro e he
    cases e with
    | cb id v => exact ((hes _ he).elim hsettle htick).elim
    | w | send | tx => rfl
  rw [ht, callbackLevels_append, callbackLevels_of_no_callback id hnone, List.append_nil]

theorem heldOff_of_ne (h : exec i s = .next t) (hinit : s.dbInit = true) (hrun : t.timRun = true) (hsettle : i ≠ .dbSettle)
    (htick : i ≠ .timTick) : HeldOff s t := by
  obtain ⟨hinit', -, hper⟩ := exec_keeps_binding h hinit
  exact ⟨hinit', hrun, hper, callbackLevels_of_ne h hsettle htick⟩

/-- The timer of an initialised block is left alone by all but an edge, a tick and a settle (R21, R125). -/
theorem exec_keeps_timer (h : exec i s = .next t) (hinit : s.dbInit = true) (hedge : ∀ mask, i ≠ .dbEdge mask)
    (hsettle : i ≠ .dbSettle) (htick : i ≠ .timTick) : t.timRun = s.timRun ∧ t.timCnt = s.timCnt := by
  cases i with
  | dbInit tim ms =>
    obtain ⟨st, v, rfl⟩ | ⟨hnot, -⟩ := exec_dbInit_cases h
    · exact ⟨rfl, rfl⟩
    · exact nomatch hinit.symm.trans hnot
  | dbRegister port pin level cb => obtain ⟨st, v, rfl⟩ | rfl := exec_dbRegister_inv h <;> exact ⟨rfl, rfl⟩
  | dbEdge mask => exact absurd rfl (hedge mask)
  | dbSettle => exact absurd rfl hsettle
  | timTick => exact absurd rfl htick
  | srCreateGpio | srCreateSpi | srWrite | srComplete | spiByte | spiFail =>
    have hsame := sameDebounce_of_shift rfl h
    exact ⟨hsame.timRun, hsame.timCnt⟩
  | envLevel | envStore =>
    obtain rfl := Host.Outcome.next.inj h
    exact ⟨rfl, rfl⟩

/-- A tick before the period is reached is counted. -/
theorem heldOff_timTick (h : exec .timTick s = .next t) (hinit : s.dbInit = true) (hrun : s.timRun = true)
    (hlt : s.timCnt.toNat + 1 < s.dbPeriod.toNat) : HeldOff s t ∧ t.timCnt.toNat = s.timCnt.toNat + 1 := by
  have hnot : s.timCnt + 1#20 ≠ s.dbPeriod := by bv_omega
  rw [exec_timTick_of_counting hrun hnot] at h
  obtain rfl := Host.Outcome.next.inj h
  have hcount : (s.timCnt + 1#20).toNat = s.timCnt.toNat + 1 := by bv_omega
  exact ⟨⟨hinit, hrun, rfl, fun _ => rfl⟩, hcount⟩

/-- A qualifying edge starts the count again; another edge leaves it (R117). -/
theorem heldOff_dbEdge {mask : PinMask} (h : exec (.dbEdge mask) s = .next t) (hinit : s.dbInit = true)
    (hrun : s.timRun = true) :
    HeldOff s t ∧ t.timCnt.toNat = if mask &&& s.dbMask = 0#16 then s.timCnt.toNat else 0 := by
  obtain ⟨hmask | hnot, st, v, rfl⟩ | ⟨hmask, -, rfl⟩ := exec_dbEdge_cases h
  · exact ⟨heldOff_of_ne h hinit hrun nofun nofun, (if_pos hmask).symm⟩
  · exact nomatch hinit.symm.trans hnot
  · exact ⟨heldOff_of_ne h hinit rfl nofun nofun, (if_neg hmask).symm⟩

/-- One operation of a window of which the ticks so far stand in the count: the settle is held off, and the ticks of the rest go on
from the count. -/
theorem windowTicks_cons {is : List Instr} {c : Nat} (hinit : s.dbInit = true) (hrun : s.timRun = true)
    (hw : windowTicks s.dbPeriod.toNat s.timCnt.toNat s (i :: is) = some c) :
    HeldOff s (afterOp i s) ∧
      windowTicks s.dbPeriod.toNat (afterOp i s).timCnt.toNat (afterOp i s) is = some c := by
  have h := exec_eq_next i s
  cases i with
  | timTick =>
    rw [windowTicks] at hw
    split_ifs at hw with hlt
    obtain ⟨hheld, hcnt⟩ := heldOff_timTick h hinit hrun hlt
    exact ⟨hheld, hcnt ▸ hw⟩
  | dbEdge mask =>
    obtain ⟨hheld, hcnt⟩ := heldOff_dbEdge h hinit hrun
    exact ⟨hheld, hcnt ▸ hw⟩
  | dbSettle => exact nomatch hw
  | dbInit | dbRegister | srCreateGpio | srCreateSpi | srWrite | srComplete | spiByte | spiFail | envLevel | envStore =>
    obtain ⟨hrun', hcnt⟩ := exec_keeps_timer h hinit nofun nofun nofun
    exact ⟨heldOff_of_ne h hinit (hrun'.trans hrun) nofun nofun, hcnt ▸ hw⟩

/-- Along a window the settle is held off, and the count is the ticks of the window. -/
theorem runOps_of_windowTicks {ops : List Instr} {c : Nat} (hinit : s.dbInit = true) (hrun : s.timRun = true)
    (hw : windowTicks s.dbPeriod.toNat s.timCnt.toNat s ops = some c) :
    ∃ t, runOps ops s = .next t ∧ HeldOff s t ∧ t.timCnt.toNat = c := by
  induction ops generalizing s with
  | nil => exact ⟨s, rfl, .refl hinit hrun, Option.some.inj hw⟩
  | cons i is ih =>
    obtain ⟨hheld, hrest⟩ := windowTicks_cons hinit hrun hw
    rw [← hheld.dbPeriod] at hrest
    obtain ⟨t, ht, hheld', hcnt⟩ := ih hheld.dbInit hheld.timRun hrest
    exact ⟨t, (runOps_cons (exec_eq_next i s) is).trans ht, hheld.trans hheld', hcnt⟩

end HeldOff

/-- Settles O23: by induction on the operations, each of which holds the settle off and keeps the window's ticks in the count. -/
theorem burstHoldsTheSettleOff : Obligations.BurstHoldsTheSettleOff := by
  intro ops s c hinit hrun hw
  obtain ⟨t, ht, hheld, hcnt⟩ := runOps_of_windowTicks hinit hrun hw
  exact ⟨t, ht, hheld.timRun, hcnt, hheld.dbPeriod, hheld.callbacks⟩

end Sys2Proof.Machine
end

section
/-! The Shift-register unit (41_shiftreg.md): the outcome of each of its operations and of the SPI collaborator's steps, and the
drain of a transfer. -/

namespace Sys2Proof.Machine

/-! ## Descriptors built by creation (R93, R141, R142) -/

/-- The low byte of a `GPIO` descriptor: no reserved bit, no peripheral, the mode. -/
theorem desc_gpio (srclk rclk ser : LineId) : Inst.desc (.gpio srclk rclk ser) = ser ++ rclk ++ srclk ++ 0x01#8 := by
  apply BitVec.eq_of_getLsbD_eq
  intro i hi
  simp only [Inst.desc, BitVec.getLsbD_append]
  interval_cases i <;> simp

theorem instOf_of_gpio {d : Desc} (hd : DescWellFormed d) (hm : descMode d = .gpio) :
    instOf d = some (.gpio (descSrclk d) (descRclk d) (descSer d)) := by
  obtain ⟨hnull, hmbz, ⟨-, hspi⟩ | ⟨hsw, -⟩⟩ := (descWellFormed_iff d).mp hd
  · simp [instOf, hnull, hmbz, hm, hspi]
  · exact nomatch hm.symm.trans hsw

theorem instOf_of_spiSw {d : Desc} (hd : DescWellFormed d) (hm : descMode d = .spiSw) :
    instOf d = some (.spiSw (descSpi d) (descRclk d)) := by
  obtain ⟨hnull, hmbz, ⟨hgpio, -⟩ | ⟨-, hspi, hsrclk, hser⟩⟩ := (descWellFormed_iff d).mp hd
  · exact nomatch hm.symm.trans hgpio
  · simp [instOf, hnull, hmbz, hm, hspi, hsrclk, hser]

/-- A `GPIO` descriptor gives its three lines back. -/
theorem instOf_gpio (srclk rclk ser : LineId) :
    instOf (ser ++ rclk ++ srclk ++ 0x01#8) = some (.gpio srclk rclk ser) := by
  have hmode : descMode (ser ++ rclk ++ srclk ++ 0x01#8) = .gpio :=
    (descMode_eq_gpio_iff _).mpr (Laws.extractLsb'_append_low _ _ 0 2 (by decide))
  rw [instOf_of_gpio (descWellFormed_gpio srclk rclk ser) hmode]
  simp (disch := omega) only [descSrclk, descRclk, descSer, Laws.extractLsb'_append_high, Laws.extractLsb'_append_whole,
    Nat.reduceSub, BitVec.extractLsb'_eq_self]

/-- An `SPI_SW` descriptor gives its peripheral and its storage clock back. -/
theorem instOf_spiSw {h : SpiHandle} (hne : h ≠ 0#2) (rclk : LineId) :
    instOf (0#8 ++ rclk ++ 0#8 ++ 0#4 ++ h ++ 0b10#2) = some (.spiSw h rclk) := by
  have hmode : descMode (0#8 ++ rclk ++ 0#8 ++ 0#4 ++ h ++ 0b10#2) = .spiSw :=
    (descMode_eq_spiSw_iff _).mpr (Laws.extractLsb'_append_whole _ _)
  rw [instOf_of_spiSw (descWellFormed_spiSw hne rclk) hmode]
  simp (disch := omega) only [descSpi, descRclk, Laws.extractLsb'_append_high, Laws.extractLsb'_append_whole,
    Nat.reduceSub]

/-! ## Creation (R141 to R144) -/

/-- Settles O25: the descriptor is put together, and only the observer takes notice. -/
theorem srCreateGpioOutcome : Obligations.SrCreateGpioOutcome := by
  intro srclk rclk ser s
  refine ⟨_, rfl, State.ret_eq _ ?_⟩
  rw [resultWord_okValue, desc_gpio]

theorem spiRegCapacity_le_iff (s : State) : Config.spiRegCapacity ≤ s.spiRegCount.toNat ↔ s.spiRegCount = 3#2 := by
  unfold Config.spiRegCapacity
  bv_omega

/-- What a handle but 0 indexes stands one place below it (R34, R37, R38). -/
theorem exists_toNat_eq_succ {h : SpiHandle} (hne : h ≠ 0#2) : ∃ n, h.toNat = n + 1 :=
  Nat.exists_eq_succ_of_ne_zero fun h0 => hne (BitVec.eq_of_toNat_eq h0)

theorem spiCfgOf_eq (s : State) {h : SpiHandle} (hne : h ≠ 0#2) : s.spiCfgOf h = s.spiCfg[h.toNat - 1]? := by
  obtain ⟨n, hn⟩ := exists_toNat_eq_succ hne
  simp only [State.spiCfgOf, hn, Nat.add_sub_cancel]

theorem spiSendDraw_eq (s : State) {h : SpiHandle} (hne : h ≠ 0#2) {draw : ErrCode}
    (hdraw : s.draws.spiSendErr[h.toNat - 1]? = some draw) : s.spiSendDraw h = draw := by
  obtain ⟨n, hn⟩ := exists_toNat_eq_succ hne
  rw [hn, Nat.add_sub_cancel] at hdraw
  simp only [State.spiSendDraw, hn, hdraw, Option.getD_some]

/-- Settles O26: the tests of `SR_CREATE_SPI` in their order, each with its answer. -/
theorem srCreateSpiOutcome : Obligations.SrCreateSpiOutcome := by
  intro spi rclk s
  refine ⟨_, rfl, ?_⟩
  by_cases hnull : spi = 0#2
  · simp only [if_pos hnull]
    exact s.ret_eq resultWord_invalidArg
  simp only [if_neg hnull, spiRegCapacity_le_iff, spiCfgOf_eq s hnull, spiContract]
  split_ifs with hfull hcfg
  · exact s.ret_eq resultWord_capacity
  · exact s.ret_eq resultWord_misconfig
  · exact State.ret_eq _ (resultWord_okValue _)

/-- The contract is its seven fields (R37, R143). -/
theorem eq_spiContract_iff (cfg : BitVec 7) : cfg = spiContract ↔ ∀ f : SpiCfgField, cfg.getLsbD f.bit = f.required := by
  constructor
  · rintro rfl f
    cases f <;> rfl
  · intro h
    apply BitVec.eq_of_getLsbD_eq
    intro i hi
    interval_cases i
    exacts [h .mstr, h .ssm, h .nfd, h .dff16, h .cpha2, h .lsbfirst, h .crcen]

/-- Settles O27: with room in the registry only the configuration is left to test, and its one good word has all seven fields. -/
theorem spiContractNeedsAllSevenFields : Obligations.SpiContractNeedsAllSevenFields := by
  intro spi rclk s cfg hne hroom hcfg
  have hfull : s.spiRegCount ≠ 3#2 := by bv_omega
  obtain ⟨t, ht, hout⟩ := srCreateSpiOutcome spi rclk s
  rw [if_neg hne, if_neg hfull] at hout
  have hgood : s.spiCfg[spi.toNat - 1]? = some 0b0000011#7 ↔ ∀ f : SpiCfgField, cfg.getLsbD f.bit = f.required := by
    rw [hcfg, Option.some_inj]
    exact eq_spiContract_iff cfg
  constructor
  · intro hall
    rw [if_neg (not_not.mpr (hgood.mpr hall))] at hout
    refine ⟨t, _, ht, congrArg State.result hout, ?_, congrArg State.spiRegCount hout⟩
    exact Laws.extractLsb'_append_low _ _ 0 8 (by decide)
  · rintro ⟨f, hf⟩
    rw [if_pos fun heq => hf (hgood.mp heq f)] at hout
    rw [ht, hout]

/-! ## The levels driven by an operation (R42, R43) -/

/-- After an operation each line stands at the last level the operation drove on it, or as it stood. -/
theorem DriveRun.drivenLevel {s t : State} (h : DriveRun s t) :
    ∃ es, t.outTrace = s.outTrace ++ es ∧
      ∀ ln, drivenLevel t.gpioOut ln = (lastLevel (lineDrives ln es)).or (drivenLevel s.gpioOut ln) := by
  induction h with
  | refl => exact ⟨[], by simp, fun _ => rfl⟩
  | tail _ hmove ih =>
    obtain ⟨es, htrace, hlevel⟩ := ih
    obtain ⟨l, v, rfl⟩ | hq := hmove
    · refine ⟨es ++ [.w l v], by rw [State.gpioWrite_outTrace, htrace, List.append_assoc], fun ln => ?_⟩
      rw [drivenLevel_gpioWrite, lineDrives_append, hlevel]
      by_cases hl : ln = l
      · subst hl
        simp [lineDrives, lastLevel_snoc]
      · simp [lineDrives, hl, Ne.symm hl]
    · obtain ⟨fs, hfs, hno⟩ := hq.trace
      refine ⟨es ++ fs, by rw [hfs, htrace, List.append_assoc], fun ln => ?_⟩
      rw [hq.gpioOut, hlevel, lineDrives_append, lineDrives_of_no_drive ln hno, List.append_nil]

theorem exec_drivenLevel {i : Instr} {s t : State} {es : List Event} (h : exec i s = .next t)
    (ht : t.outTrace = s.outTrace ++ es) (ln : LineId) :
    drivenLevel t.gpioOut ln = (lastLevel (lineDrives ln es)).or (drivenLevel s.gpioOut ln) := by
  obtain ⟨fs, hfs, hlevel⟩ := (exec_driveRun h).drivenLevel
  obtain rfl := List.append_cancel_left (ht.symm.trans hfs)
  exact hlevel ln

/-! ## The GPIO-mode write (R145 to R148) -/

theorem exec_srWrite_gpio (srclk rclk ser : LineId) (addr : Addr) (len : Len) (s : State) :
    exec (.srWrite (ser ++ rclk ++ srclk ++ 0x01#8) addr len) s =
      .next ((((State.clockBytes srclk ser len.toNat addr (s.gpioWrite rclk false)).gpioWrite rclk true).noteInst
        (.gpio srclk rclk ser)).ret .ok 0#32) := by
  simp only [exec, execSrWrite, instOf_gpio]

theorem byteDrives_length (srclk ser : LineId) (b : Byte) : (byteDrives srclk ser b).length = 24 := rfl

/-- Two drives of the latch, and three for each bit of each byte. -/
theorem writeDrives_length (srclk rclk ser : LineId) (bytes : List Byte) :
    (writeDrives srclk rclk ser bytes).length = 2 + 24 * bytes.length := by
  have hbits : (bytes.flatMap (byteDrives srclk ser)).length = 24 * bytes.length := by
    simp only [List.length_flatMap, byteDrives_length, List.map_const', List.sum_replicate_nat, Nat.mul_comm]
  simp only [writeDrives, List.length_cons, List.length_append, hbits, List.length_nil]
  omega

/-- Settles O29: the latch opened, the bytes clocked out, the latch closed; each line stands where these drives leave it. -/
theorem srWriteGpioOutcome : Obligations.SrWriteGpioOutcome := by
  intro srclk rclk ser addr len s
  have hexec := exec_srWrite_gpio srclk rclk ser addr len s
  refine ⟨_, hexec, ?trace, ?length, exec_drivenLevel hexec ?trace, ?frame⟩
  case trace => simp [clockBytes_outTrace, writeDrives]
  case length => rw [writeDrives_length, bufferBytes_length]
  case frame => apply State.ext <;> simp [resultWord_ok]

/-! ## The SPI-mode write (R146, R149, R150, R156) -/

/-- The state in which `SpiSend` is asked: step 1 of the write has driven the storage clock low (R146). -/
abbrev State.opened (s : State) (h : SpiHandle) (rclk : LineId) : State := (s.gpioWrite rclk false).noteInst (.spiSw h rclk)

section SpiWrite

variable {s t : State} {h : SpiHandle} {rclk : LineId} {addr : Addr} {len : Len}

theorem exec_srWrite_spiSw_of_refused {e : ErrCode} (hne : h ≠ 0#2)
    (hsend : (s.opened h rclk).spiSend h addr len = (e, s.opened h rclk)) (he : e ≠ 0#8) :
    exec (.srWrite (0#8 ++ rclk ++ 0#8 ++ 0#4 ++ h ++ 0b10#2) addr len) s = .next ((s.opened h rclk).retPeriphError e) := by
  simp only [exec, execSrWrite, instOf_spiSw hne, hsend, if_pos he]

theorem exec_srWrite_spiSw_of_taken (hne : h ≠ 0#2) (hsend : (s.opened h rclk).spiSend h addr len = (0#8, t)) :
    exec (.srWrite (0#8 ++ rclk ++ 0#8 ++ 0#4 ++ h ++ 0b10#2) addr len) s = .next (t.ret .ok 0#32) := by
  simp only [exec, execSrWrite, instOf_spiSw hne, hsend, ne_eq, not_true, if_false]

end SpiWrite

/-- Settles O30: the storage clock is low before `SpiSend` is asked, and `SpiSend` reads nothing that the drive changed. -/
theorem srWriteSpiOutcome : Obligations.SrWriteSpiOutcome := by
  intro h rclk addr len s p draw hp hdraw
  have hne := periph_ne_zero hp
  have hsend := spiSend_cases (s.opened h rclk) h addr len p hp
  rw [spiSendDraw_eq (s.opened h rclk) hne hdraw] at hsend
  have hlevel := fun ln => drivenLevel_gpioWrite s rclk ln false
  by_cases hbusy : p.busy = true
  · simp only [if_pos hbusy] at hsend ⊢
    exact ⟨_, exec_srWrite_spiSw_of_refused hne hsend (by decide), hlevel, State.ret_eq _ resultWord_peBusy⟩
  by_cases hlen : len = 0#8
  · simp only [if_neg hbusy, if_pos hlen] at hsend ⊢
    exact ⟨_, exec_srWrite_spiSw_of_refused hne hsend (by decide), hlevel, State.ret_eq _ resultWord_peError⟩
  by_cases herr : draw ≠ 0#8
  · simp only [if_neg hbusy, if_neg hlen, if_pos herr] at hsend ⊢
    exact ⟨_, exec_srWrite_spiSw_of_refused hne hsend herr, hlevel, State.ret_eq _ (resultWord_periphError draw)⟩
  · simp only [if_neg hbusy, if_neg hlen, if_neg herr] at hsend ⊢
    have hout : ((s.opened h rclk).setPeriph h ⟨true, addr, len, 0#8⟩).gpioOut = (s.gpioWrite rclk false).gpioOut :=
      State.setPeriph_gpioOut _ _ _
    refine ⟨_, exec_srWrite_spiSw_of_taken hne hsend, fun ln => (congrArg (drivenLevel · ln) hout).trans (hlevel ln), ?frame,
      fun h' => periph_setPeriph (s.opened h rclk) h h' _ hne⟩
    case frame => apply State.ext <;> simp [resultWord_ok]

/-! ## The completion (R152 to R154) -/

/-- The latch pulse of the owner of a peripheral, nothing where it has none. -/
def State.latchPulse (s : State) (h : SpiHandle) : List Event :=
  match s.registry.find? (fun e => e.h == h) with
  | none => []
  | some e => [.w (e.inst.extractLsb' 16 8) false, .w (e.inst.extractLsb' 16 8) true]

theorem latchPulse_congr {s t : State} (hc : t.spiRegCount = s.spiRegCount) (hr : t.spiReg = s.spiReg) (h : SpiHandle) :
    t.latchPulse h = s.latchPulse h := by
  unfold State.latchPulse
  rw [registry_congr hc hr]

theorem performComplete_outTrace (s : State) (h : SpiHandle) :
    (s.performComplete h).outTrace = s.outTrace ++ s.latchPulse h := by
  unfold State.latchPulse
  rw [← owner_eq_find]
  cases ho : s.owner h with
  | none => rw [performComplete_none s h ho, List.append_nil]
  | some e =>
    rw [performComplete_some s h e ho, State.redrawShared_outTrace, State.gpioWrite_outTrace, State.gpioWrite_outTrace,
      List.append_assoc]
    rfl

/-- Settles O31: the owner is the first registered entry of the peripheral, and its storage clock is all that is driven. -/
theorem srCompleteOutcome : Obligations.SrCompleteOutcome := by
  intro h s
  refine ⟨(s.performComplete h).done, rfl, ?_⟩
  rw [← owner_eq_find]
  cases ho : s.owner h with
  | none => exact congrArg State.done (performComplete_none s h ho)
  | some e =>
    rw [performComplete_some s h e ho]
    refine ⟨?frame, fun ln => ?level⟩
    case frame => apply State.ext <;> simp [descRclk]
    case level =>
      change drivenLevel ((s.gpioWrite (descRclk e.inst) false).gpioWrite (descRclk e.inst) true).gpioOut ln =
        if ln = descRclk e.inst then some true else _
      rw [drivenLevel_gpioWrite, drivenLevel_gpioWrite]
      split_ifs <;> rfl

/-! ## The collaborator's steps (R157, R158) -/

/-- A peripheral after its next byte: the index advanced, idle once it reaches the length (R157). -/
def SpiPeriph.sent (p : SpiPeriph) : SpiPeriph := { p with idx := p.idx + 1#8, busy := decide (p.idx + 1#8 ≠ p.len) }

theorem SpiPeriph.sent_of_last {p : SpiPeriph} (hlast : p.idx + 1#8 = p.len) : p.sent = { p with busy := false, idx := p.len } := by
  simp [SpiPeriph.sent, hlast]

theorem SpiPeriph.sent_of_more {p : SpiPeriph} (hmore : p.idx + 1#8 ≠ p.len) :
    p.sent = { p with busy := true, idx := p.idx + 1#8 } := by
  simp [SpiPeriph.sent, hmore]

/-- The state after the byte of a busy peripheral is sent, before any completion (R157). -/
def State.byteSent (s : State) (h : SpiHandle) (p : SpiPeriph) : State :=
  (s.transmit h (memRead s.mem (p.addr + p.idx.setWidth 16))).setPeriph h p.sent

section Collaborator

variable {s : State} {h : SpiHandle} {p : SpiPeriph}

theorem byteSent_outTrace (s : State) (h : SpiHandle) (p : SpiPeriph) :
    (s.byteSent h p).outTrace = s.outTrace ++ [.tx h (memRead s.mem (p.addr + p.idx.setWidth 16))] :=
  State.setPeriph_outTrace _ _ _

theorem byteSent_frame (s : State) (h : SpiHandle) (p : SpiPeriph) :
    s.byteSent h p = { s with
      outTrace := (s.byteSent h p).outTrace, cascades := (s.byteSent h p).cascades, spi := (s.byteSent h p).spi } := by
  apply State.ext <;> simp [State.byteSent]

theorem byteSent_mem (s : State) (h : SpiHandle) (p : SpiPeriph) : (s.byteSent h p).mem = s.mem := by
  rw [byteSent_frame]

theorem byteSent_latchPulse (s : State) (h : SpiHandle) (p : SpiPeriph) (h' : SpiHandle) :
    (s.byteSent h p).latchPulse h' = s.latchPulse h' :=
  latchPulse_congr (by rw [byteSent_frame]) (by rw [byteSent_frame]) h'

theorem byteSent_periph (hne : h ≠ 0#2) (h' : SpiHandle) :
    (s.byteSent h p).periph h' = if h' = h then some p.sent else s.periph h' :=
  periph_setPeriph _ h h' _ hne

theorem exec_spiByte_of_idle (hidle : ∀ p, s.periph h = some p → p.busy = false) : exec (.spiByte h) s = .next s.done := by
  simp only [exec, execSpiByte]
  cases hp : s.periph h with
  | none => rfl
  | some p => dsimp only; rw [if_pos (hidle p hp)]

theorem exec_spiByte_of_busy (hp : s.periph h = some p) (hbusy : p.busy = true) :
    exec (.spiByte h) s =
      if p.idx + 1#8 = p.len then exec (.srComplete h) (s.byteSent h p) else .next (s.byteSent h p).done := by
  have hnot : p.busy ≠ false := by rw [hbusy]; decide
  simp only [exec, execSpiByte, execSrComplete, hp, if_neg hnot, State.byteSent]
  split_ifs with hlast
  · rw [p.sent_of_last hlast, hlast]
  · rw [p.sent_of_more hlast, ← hbusy]

theorem exec_spiFail_of_idle (hidle : ∀ p, s.periph h = some p → p.busy = false) : exec (.spiFail h) s = .next s.done := by
  simp only [exec, execSpiFail]
  cases hp : s.periph h with
  | none => rfl
  | some p => dsimp only; rw [if_pos (hidle p hp)]

theorem exec_spiFail_of_busy (hp : s.periph h = some p) (hbusy : p.busy = true) :
    exec (.spiFail h) s = .next (s.setPeriph h { p with busy := false }).done := by
  have hnot : p.busy ≠ false := by rw [hbusy]; decide
  simp only [exec, execSpiFail, hp, if_neg hnot]

end Collaborator

/-- Settles O33: only the busy bit of the peripheral is written. -/
theorem spiFailOutcome : Obligations.SpiFailOutcome := by
  refine fun h s => ⟨exec_spiFail_of_idle, fun p hp hbusy => ?_⟩
  refine ⟨_, exec_spiFail_of_busy hp hbusy, ?_, fun h' => periph_setPeriph s h h' _ (periph_ne_zero hp)⟩
  apply State.ext <;> simp

/-- Settles O32: the byte sent, then nothing more or the completion. -/
theorem spiByteOutcome : Obligations.SpiByteOutcome := by
  refine fun h s => ⟨exec_spiByte_of_idle, fun p hp hbusy => ?_⟩
  have hexec := exec_spiByte_of_busy hp hbusy
  refine ⟨_, s.byteSent h p, exec_eq_next _ s, byteSent_outTrace s h p, byteSent_frame s h p,
    byteSent_periph (periph_ne_zero hp), ?_⟩
  split_ifs with hlast
  · rw [if_pos hlast] at hexec
    rw [← hexec, exec_eq_next]
  · rw [if_neg hlast] at hexec
    exact afterOp_of_exec hexec

/-! ## The drain of a transfer (R102, R152, R157) -/

/-- The bytes left, one step for each: they are sent in ascending order, and the latch pulse follows the last one. -/
theorem runOps_spiBytes {h : SpiHandle} {n : Nat} {s : State} {p : SpiPeriph} (hp : s.periph h = some p) (hbusy : p.busy = true)
    (hleft : p.idx.toNat + (n + 1) = p.len.toNat) :
    ∃ t, runOps (List.replicate (n + 1) (.spiByte h)) s = .next t ∧
      t.outTrace = s.outTrace ++ (bufferBytes s.mem (p.addr + p.idx.setWidth 16) (n + 1)).map (Event.tx h) ++ s.latchPulse h ∧
      ∀ h', t.periph h' = if h' = h then some { p with busy := false, idx := p.len } else s.periph h' := by
  induction n generalizing s p with
  | zero =>
    have hlast : p.idx + 1#8 = p.len := by bv_omega
    have hexec : exec (.spiByte h) s = .next ((s.byteSent h p).performComplete h).done :=
      (exec_spiByte_of_busy hp hbusy).trans (if_pos hlast)
    refine ⟨_, (runOps_singleton _ s).trans hexec, ?_, fun h' => ?_⟩
    · refine (performComplete_outTrace _ h).trans ?_
      rw [byteSent_latchPulse, byteSent_outTrace, bufferBytes_succ]
      rfl
    · rw [← p.sent_of_last hlast, ← byteSent_periph (periph_ne_zero hp) h']
      exact periph_congr (State.performComplete_spi _ h) h'
  | succ n ih =>
    have hmore : p.idx + 1#8 ≠ p.len := by bv_omega
    have hnext : p.addr + (p.idx + 1#8).setWidth 16 = p.addr + p.idx.setWidth 16 + 1#16 := by bv_omega
    have hexec : exec (.spiByte h) s = .next (s.byteSent h p).done := (exec_spiByte_of_busy hp hbusy).trans (if_neg hmore)
    have hsent := byteSent_periph (s := s) (p := p) (periph_ne_zero hp)
    rw [p.sent_of_more hmore] at hsent
    obtain ⟨t, hrun, htrace, hperiph⟩ := ih (s := (s.byteSent h p).done) (p := { p with busy := true, idx := p.idx + 1#8 })
      ((hsent h).trans (if_pos rfl)) rfl (by dsimp only; bv_omega)
    refine ⟨t, (runOps_cons hexec _).trans hrun, ?_, fun h' => ?_⟩
    · have hpulse : (s.byteSent h p).done.latchPulse h = s.latchPulse h := byteSent_latchPulse s h p h
      rw [htrace, hpulse, State.done_outTrace, State.done_mem, byteSent_outTrace, byteSent_mem, hnext,
        bufferBytes_succ _ _ (n + 1)]
      simp
    · rw [hperiph]
      split_ifs with hh
      · rfl
      · exact (hsent h').trans (if_neg hh)

/-- Settles O34: the drain is one step for each byte left. -/
theorem transferSendsItsBufferThenLatches : Obligations.TransferSendsItsBufferThenLatches := by
  intro h s p hp hbusy hlt
  obtain ⟨n, hn⟩ := Nat.exists_eq_add_of_lt hlt
  have hcount : p.len.toNat - p.idx.toNat = n + 1 := by omega
  have hdrain : pseudoSpiDrain s h = List.replicate (n + 1) (.spiByte h) := by
    simp only [pseudoSpiDrain, hp, if_pos hbusy, hcount]
  rw [hdrain, hcount]
  exact ⟨List.length_replicate, runOps_spiBytes hp hbusy hn.symm⟩

end Sys2Proof.Machine
end

section
/-! The environment and the cascade observer (42_environment.md): the moves of the environment, what one event does to an observed
cascade, and what a whole write or transfer leaves in one that shares no line. -/

namespace Sys2Proof.Machine

/-! ## The moves of the environment (R170, R171) -/

/-- Settles O35: the input levels are written at one line. -/
theorem envLevelOutcome : Obligations.EnvLevelOutcome := fun ln v s => ⟨_, rfl, rfl, fun ln' => gpioRead_setInput s ln ln' v⟩

/-- Settles O36: memory is written at one address. -/
theorem envStoreOutcome : Obligations.EnvStoreOutcome := fun addr val s => ⟨_, rfl, rfl, fun a => memRead_memWrite s addr a val⟩

/-! ## One event seen by a cascade (R175 to R177) -/

section Edges

variable {c : Cascade} {srclk rclk ser ln : LineId} {out : Sparse (Option Level)}

theorem onDrive_low (c : Cascade) (out : Sparse (Option Level)) (ln : LineId) (n k : Nat) : c.onDrive out ln false n k = c :=
  if_pos rfl

theorem onDrive_high_gpio (htap : c.tap = .gpio srclk rclk ser) (n k : Nat) :
    c.onDrive out ln true n k =
      if ln = srclk then c.shiftClockHigh out srclk ser n k else if ln = rclk then c.storageClockHigh out rclk else c := by
  simp only [Cascade.onDrive, htap, Bool.true_eq_false, if_false]

theorem onDrive_high_spi {h : SpiHandle} (htap : c.tap = .spi h rclk) (n k : Nat) :
    c.onDrive out ln true n k = if ln = rclk then c.storageClockHigh out rclk else c := by
  simp only [Cascade.onDrive, htap, Bool.true_eq_false, if_false]

/-- A rising shift clock shifts in the level of a driven data line. -/
theorem shiftClockHigh_of_rising {b : Level} (hclk : drivenLevel out srclk = some false) (hser : drivenLevel out ser = some b)
    (n k : Nat) (c : Cascade) : c.shiftClockHigh out srclk ser n k = c.shiftBit b := by
  simp only [Cascade.shiftClockHigh, hclk, hser]

/-- A storage clock that rises latches. -/
theorem storageClockHigh_of_rising (hclk : drivenLevel out rclk = some false) (c : Cascade) :
    c.storageClockHigh out rclk = c.latch := by
  simp only [Cascade.storageClockHigh, hclk]

/-- A storage clock that does not rise does nothing. -/
theorem storageClockHigh_of_not_rising (hclk : drivenLevel out rclk ≠ some false) (c : Cascade) :
    c.storageClockHigh out rclk = c := by
  unfold Cascade.storageClockHigh
  split
  · next h => exact absurd h hclk
  · rfl
  · rfl

theorem distinct_gpio_iff (htap : c.tap = .gpio srclk rclk ser) :
    c.distinct = true ↔ srclk ≠ rclk ∧ srclk ≠ ser ∧ rclk ≠ ser := by
  simp only [Cascade.distinct, htap, Bool.and_eq_true, bne_iff_ne, and_assoc]

/-- A rising storage clock latches the cascade that has it, whichever way it is observed. -/
theorem onDrive_latch (hdist : c.distinct = true) (hrclk : c.tap.rclk = rclk) (hclk : drivenLevel out rclk = some false)
    (n k : Nat) : c.onDrive out rclk true n k = c.latch := by
  subst hrclk
  cases htap : c.tap with
  | gpio srclk rclk ser =>
    rw [htap] at hclk
    obtain ⟨hne, -⟩ := (distinct_gpio_iff htap).mp hdist
    rw [Tap.rclk, onDrive_high_gpio htap, if_neg hne.symm, if_pos rfl]
    exact storageClockHigh_of_rising hclk c
  | spi h rclk =>
    rw [htap] at hclk
    rw [Tap.rclk, onDrive_high_spi htap, if_pos rfl]
    exact storageClockHigh_of_rising hclk c

end Edges

/-! ## Bits and bytes shifted in (R175, R176) -/

/-- `y` shifted into `w` stages that hold `x`, as a number. -/
theorem toNat_shiftIn {w n : Nat} (x : BitVec w) (y : BitVec n) :
    (x <<< n ||| y.setWidth w).toNat = (x.toNat * 2 ^ n + y.toNat) % 2 ^ w := by
  rw [BitVec.toNat_or, BitVec.toNat_shiftLeft, BitVec.toNat_setWidth, ← Nat.or_mod_two_pow,
    ← Nat.shiftLeft_add_eq_or_of_lt y.isLt, Nat.shiftLeft_eq]

theorem toNat_shiftInBit {w : Nat} (x : BitVec w) (b : Level) :
    (x <<< 1 ||| BitVec.ofNat w b.toNat).toNat = (2 * x.toNat + b.toNat) % 2 ^ w := by
  have hbit : BitVec.ofNat w b.toNat = (BitVec.ofBool b).setWidth w := by
    apply BitVec.eq_of_toNat_eq
    rw [BitVec.toNat_ofNat, BitVec.toNat_setWidth, BitVec.toNat_ofBool]
  rw [hbit, toNat_shiftIn, BitVec.toNat_ofBool, Nat.mul_comm, pow_one]

theorem shiftBit_chain_toNat (c : Cascade) (b : Level) :
    (c.shiftBit b).chain.toNat = (2 * c.chain.toNat + b.toNat) % 2 ^ (8 * c.chips) := toNat_shiftInBit c.chain b

/-- Settles O37: a drive high goes to the clock it drives, which acts where its level was 0. -/
theorem observerFollowsRisingEdges : Obligations.ObserverFollowsRisingEdges := by
  intro c srclk rclk ser ln v out n k htap hne
  refine ⟨?shift, ?latch, ?quiet, ?notRising⟩
  case shift =>
    rintro b rfl rfl hclk hser
    rw [onDrive_high_gpio htap, if_pos rfl, shiftClockHigh_of_rising hclk hser]
    exact ⟨shiftBit_chain_toNat c b, rfl⟩
  case latch =>
    rintro rfl rfl hclk
    rw [onDrive_high_gpio htap, if_neg hne.symm, if_pos rfl, storageClockHigh_of_rising hclk]
    exact ⟨rfl, rfl⟩
  case quiet =>
    rintro (rfl | ⟨hsrclk, hrclk⟩)
    · exact onDrive_low c out ln n k
    · cases v with
      | false => exact onDrive_low c out ln n k
      | true => rw [onDrive_high_gpio htap, if_neg hsrclk, if_neg hrclk]
  case notRising =>
    rintro rfl hclk
    cases v with
    | false => exact onDrive_low c out ln n k
    | true => rw [onDrive_high_gpio htap, if_neg hne.symm, if_pos rfl, storageClockHigh_of_not_rising hclk]

/-- The number made of bits that come in behind `a`, the first of them the highest. -/
def bitsBehind (a : Nat) (bits : List Level) : Nat := bits.foldl (fun a v => 2 * a + v.toNat) a

theorem bitsBehind_modEq {m a a' : Nat} (h : a ≡ a' [MOD m]) (bits : List Level) :
    bitsBehind a bits ≡ bitsBehind a' bits [MOD m] := by
  induction bits generalizing a a' with
  | nil => exact h
  | cons v bits ih => exact ih ((h.mul_left 2).add_right v.toNat)

theorem bitsBehind_bitsOut (a : Nat) (b : Byte) : bitsBehind a (bitsOut b) = a * 2 ^ 8 + b.toNat := by
  have hbyte : ∀ b : Byte, bitsBehind 0 (bitsOut b) = b.toNat := by decide
  rw [← hbyte b]
  simp only [bitsBehind, bitsOut, List.foldl]
  omega

theorem toNat_foldl_shiftInBit {w : Nat} (x : BitVec w) (bits : List Level) :
    (bits.foldl (fun (x : BitVec w) v => x <<< 1 ||| BitVec.ofNat w v.toNat) x).toNat = bitsBehind x.toNat bits % 2 ^ w := by
  induction bits generalizing x with
  | nil => exact (Nat.mod_eq_of_lt x.isLt).symm
  | cons v bits ih =>
    refine (ih _).trans ?_
    rw [toNat_shiftInBit]
    exact bitsBehind_modEq (Nat.mod_modEq _ _) bits

theorem foldl_shiftBit (c : Cascade) (bits : List Level) :
    bits.foldl Cascade.shiftBit c =
      { c with chain := bits.foldl (fun x v => x <<< 1 ||| BitVec.ofNat (8 * c.chips) v.toNat) c.chain } := by
  induction bits generalizing c with
  | nil => rfl
  | cons v bits ih => exact ih (c.shiftBit v)

/-- The bits of a byte shifted in one after the other, bit 7 first, are the byte shifted in. -/
theorem foldl_shiftBit_bitsOut (c : Cascade) (b : Byte) : (bitsOut b).foldl Cascade.shiftBit c = c.shiftByte b := by
  rw [foldl_shiftBit, Cascade.shiftByte]
  congr 1
  apply BitVec.eq_of_toNat_eq
  rw [toNat_foldl_shiftInBit, bitsBehind_bitsOut, toNat_shiftIn]

/-- The cascade after bytes shifted in, the first byte first. -/
def Cascade.shiftBytes (c : Cascade) (bytes : List Byte) : Cascade := bytes.foldl Cascade.shiftByte c

@[simp] theorem Cascade.shiftBytes_key (c : Cascade) (bytes : List Byte) : (c.shiftBytes bytes).key = c.key := by
  induction bytes generalizing c with
  | nil => rfl
  | cons b bytes ih => exact ih (c.shiftByte b)

theorem tap_chips_of_key {c d : Cascade} {shared : Bool} (h : d.key = (c.tap, c.chips, shared)) :
    d.tap = c.tap ∧ d.chips = c.chips :=
  ⟨congrArg Prod.fst h, congrArg (fun q => q.2.1) h⟩

theorem shiftBytes_tap_chips (c : Cascade) (bytes : List Byte) :
    (c.shiftBytes bytes).tap = c.tap ∧ (c.shiftBytes bytes).chips = c.chips := tap_chips_of_key (c.shiftBytes_key bytes)

theorem pow_256_eq (n : Nat) : 256 ^ n = 2 ^ (8 * n) := (pow_mul 2 8 n).symm

/-- The shift stages after bytes shifted in: what they held, moved up by the bytes. -/
theorem shiftBytes_chain_toNat (c : Cascade) (bytes : List Byte) :
    (c.shiftBytes bytes).chain.toNat = (c.chain.toNat * 256 ^ bytes.length + bytesValue bytes) % 256 ^ c.chips := by
  induction bytes generalizing c with
  | nil =>
    rw [pow_256_eq c.chips, bytesValue, List.length_nil, pow_zero, Nat.mul_one, Nat.add_zero]
    exact (Nat.mod_eq_of_lt c.chain.isLt).symm
  | cons b bytes ih =>
    have hbyte : (c.shiftByte b).chain.toNat = (c.chain.toNat * 256 + b.toNat) % 256 ^ c.chips := by
      rw [pow_256_eq]
      exact toNat_shiftIn c.chain b
    have hmove : c.chain.toNat * 256 ^ (b :: bytes).length + bytesValue (b :: bytes) =
        (c.chain.toNat * 256 + b.toNat) * 256 ^ bytes.length + bytesValue bytes := by
      rw [List.length_cons, bytesValue]
      ring
    rw [hmove]
    refine (ih (c.shiftByte b)).trans ?_
    rw [hbyte]
    exact ((Nat.mod_modEq _ _).mul_right _).add_right _

/-- The cascade after bytes shifted in and latched (R177). -/
def Cascade.loaded (c : Cascade) (bytes : List Byte) : Cascade := (c.shiftBytes bytes).latch

@[simp] theorem Cascade.loaded_key (c : Cascade) (bytes : List Byte) : (c.loaded bytes).key = c.key := c.shiftBytes_key bytes

theorem loaded_tap_chips (c : Cascade) (bytes : List Byte) : (c.loaded bytes).tap = c.tap ∧ (c.loaded bytes).chips = c.chips :=
  shiftBytes_tap_chips c bytes

/-- Both stages then hold what the shift stages held, moved up by the bytes. -/
theorem loaded_stages (c : Cascade) (bytes : List Byte) :
    (c.loaded bytes).chain.toNat = (c.loaded bytes).outputs.toNat ∧
      (c.loaded bytes).outputs.toNat = (c.chain.toNat * 256 ^ bytes.length + bytesValue bytes) % 256 ^ c.chips :=
  ⟨rfl, shiftBytes_chain_toNat c bytes⟩

/-! ## What sharing a line depends on (R232) -/

section Sharing

variable {s t : State} {c d : Cascade} {k : Nat}

theorem buttonLines_congr (hc : t.dbCount = s.dbCount) (hl : t.line = s.line) : t.buttonLines = s.buttonLines := by
  unfold State.buttonLines; rw [hc, hl]

theorem registeredInsts_congr (hc : t.spiRegCount = s.spiRegCount) (hr : t.spiReg = s.spiReg) :
    t.registeredInsts = s.registeredInsts := by
  unfold State.registeredInsts; rw [hc, hr]

theorem DriveRun.tap_chips (h : DriveRun s t) :
    t.cascades.map (fun c => (c.tap, c.chips)) = s.cascades.map (fun c => (c.tap, c.chips)) := by
  induction h with
  | refl => rfl
  | tail _ hmove ih =>
    obtain ⟨ln, v, rfl⟩ | hq := hmove
    · exact (gpioWrite_tap_chips _ ln v).trans ih
    · exact hq.taps.trans ih

/-- Drives and updates that register nothing do not make a cascade share a line. -/
theorem DriveRun.sharesLine (h : DriveRun s t) (hcount : t.dbCount = s.dbCount) (hline : t.line = s.line)
    (hregCount : t.spiRegCount = s.spiRegCount) (hreg : t.spiReg = s.spiReg) (hd : d.key = c.key) :
    t.sharesLine d = s.sharesLine c :=
  sharesLine_congr (buttonLines_congr hcount hline) (registeredInsts_congr hregCount hreg) h.tap_chips hd

theorem sharesLine_of_shared (hc : c.shared = true) : s.sharesLine c = true := by
  simp only [State.sharesLine, hc, Bool.true_or]

theorem distinct_congr (htap : d.tap = c.tap) (hc : c.distinct = true) : d.distinct = true := by
  unfold Cascade.distinct at hc ⊢
  rwa [htap]

theorem distinct_of_unshared (hs : s.sharesLine c = false) : c.distinct = true := by
  simp only [State.sharesLine, Bool.or_eq_false_iff, Bool.not_eq_eq_eq_not, Bool.not_false] at hs
  obtain ⟨⟨⟨⟨-, hdist⟩, -⟩, -⟩, -⟩ := hs
  exact hdist

/-- The three lines of a cascade that shares none (R174). -/
theorem lines_ne_of_unshared {srclk rclk ser : LineId} (htap : c.tap = .gpio srclk rclk ser) (hs : s.sharesLine c = false) :
    srclk ≠ rclk ∧ srclk ≠ ser ∧ rclk ≠ ser := (distinct_gpio_iff htap).mp (distinct_of_unshared hs)

theorem redrawShared_of_unshared (hc : s.cascades[k]? = some c) (hs : s.sharesLine c = false) :
    s.redrawShared.cascades[k]? = some c := by
  rw [redrawShared_getElem?, hc, Option.map_some, if_neg (by rw [hs]; decide)]

theorem meetInst_of_shows {i : Inst} (hi : c.shows i = true) : c.meetInst i = c := by
  simp only [Cascade.meetInst, hi, Bool.not_true, Bool.and_false, Bool.false_eq_true, if_false]

theorem meetInst_of_not_shared {i : Inst} (hc : (c.meetInst i).shared = false) : c.meetInst i = c := by
  unfold Cascade.meetInst at hc ⊢
  split_ifs at hc ⊢ with hmeets
  rfl

/-- The state in which the observer has met the backend `i`, before the redraw. -/
abbrev State.met (s : State) (i : Inst) : State := { s with cascades := s.cascades.map (Cascade.meetInst i) }

theorem noteInst_eq_redrawShared (s : State) (i : Inst) : s.noteInst i = (s.met i).redrawShared := rfl

theorem met_cascade (hc : s.cascades[k]? = some c) (i : Inst) : (s.met i).cascades[k]? = some (c.meetInst i) := by
  rw [List.getElem?_map, hc, Option.map_some]

theorem met_sharesLine (hd : d.key = c.key) (i : Inst) : (s.met i).sharesLine d = s.sharesLine c := by
  have hlines := map_tap_chips_of_stages (fun c => tap_chips_of_key (Cascade.meetInst_key i c)) s.cascades
  exact sharesLine_congr rfl rfl hlines hd

/-- The backend that a cascade shows does not make it share a line. -/
theorem noteInst_of_shows {i : Inst} (hi : c.shows i = true) (hc : s.cascades[k]? = some c) (hs : s.sharesLine c = false) :
    (s.noteInst i).cascades[k]? = some c := by
  have hmet := met_cascade hc i
  rw [meetInst_of_shows hi] at hmet
  rw [noteInst_eq_redrawShared]
  exact redrawShared_of_unshared hmet ((met_sharesLine rfl i).trans hs)

end Sharing

/-! ## An operation that drives nothing and sends nothing (R177, R232) -/

section Quiet

variable {s t : State}

/-- A backend that becomes known changes only cascades that share a line from then on. -/
theorem keepsUnshared_noteInst (s : State) (i : Inst) : KeepsUnshared s (s.noteInst i) := by
  rw [noteInst_eq_redrawShared]
  intro k c hc
  obtain ⟨c', hc', htap, hchips, hsame⟩ := keepsUnshared_redrawShared (s.met i) k (c.meetInst i) (met_cascade hc i)
  obtain ⟨htap', hchips'⟩ := tap_chips_of_key (Cascade.meetInst_key i c)
  refine ⟨c', hc', htap.trans htap', hchips.trans hchips', fun hno => ?_⟩
  obtain rfl := hsame hno
  by_contra hne
  have hshared : (c.meetInst i).shared = true := by
    by_contra hnot
    exact hne (meetInst_of_not_shared (Bool.eq_false_of_not_eq_true hnot))
  exact nomatch (sharesLine_of_shared hshared).symm.trans hno

/-- An event that is no callback among those appended. -/
theorem not_quiet {u : State} {e : Event} (hu : u.outTrace = s.outTrace ++ [e]) (he : e.isCallback = false) (hut : DriveRun u t) :
    ¬ ∀ e ∈ t.outTrace.drop s.outTrace.length, e.isCallback = true := by
  obtain ⟨es, ht, -⟩ := hut.drivenLevel
  have hmem : e ∈ t.outTrace.drop s.outTrace.length := by
    rw [ht, hu, List.append_assoc, List.drop_left]
    exact List.mem_append_left es (List.mem_singleton_self e)
  exact fun hall => nomatch he.symm.trans (hall e hmem)

/-- Of the Shift-register unit's operations that append nothing but callbacks, only a creation touches the observed cascades. -/
theorem keepsUnshared_of_shift {i : Instr} (hi : ofShiftUnit i = true) (h : exec i s = .next t)
    (hquiet : ∀ e ∈ t.outTrace.drop s.outTrace.length, e.isCallback = true) : KeepsUnshared s t := by
  cases i with
  | srCreateGpio srclk rclk ser =>
    obtain rfl := Host.Outcome.next.inj h
    exact keepsUnshared_noteInst s _
  | srCreateSpi spi rclk =>
    obtain ⟨st, v, rfl⟩ | rfl := exec_srCreateSpi_inv h
    · exact .of_eq rfl
    · exact keepsUnshared_noteInst (s.appendSpiReg _) _
  | srWrite inst addr len =>
    obtain rfl | ⟨srclk, rclk, ser, -, rfl⟩ | ⟨spi, rclk, st, v, -, rfl⟩ := exec_srWrite_inv h
    · exact .of_eq rfl
    all_goals have hopen : DriveRun (s.gpioWrite rclk false) (s.gpioWrite rclk false) := .refl
    · have hrun := (((hopen.clockBytes srclk ser len.toNat addr).drive rclk true).noteInst (.gpio srclk rclk ser)).ret .ok 0#32
      exact absurd hquiet (not_quiet rfl rfl hrun)
    · have hrun := ((hopen.noteInst (.spiSw spi rclk)).spiSend spi addr len).ret st v
      exact absurd hquiet (not_quiet rfl rfl hrun)
  | srComplete spi =>
    obtain rfl := Host.Outcome.next.inj h
    cases ho : s.owner spi with
    | none => exact .of_eq (congrArg (fun u => u.done.cascades) (performComplete_none s spi ho))
    | some e =>
      have hopen : DriveRun (s.gpioWrite (descRclk e.inst) false) (s.gpioWrite (descRclk e.inst) false) := .refl
      have hrun := (hopen.drive (descRclk e.inst) true).redrawShared.done
      rw [← performComplete_some s spi e ho] at hrun
      exact absurd hquiet (not_quiet rfl rfl hrun)
  | spiByte spi =>
    obtain rfl | ⟨b, p, rfl | rfl⟩ := exec_spiByte_inv h
    · exact .of_eq rfl
    all_goals have hsent : DriveRun (s.transmit spi b) ((s.transmit spi b).setPeriph spi p) := DriveRun.setPeriph .refl spi p
    · exact absurd hquiet (not_quiet rfl rfl hsent.done)
    · exact absurd hquiet (not_quiet rfl rfl (hsent.performComplete spi).done)
  | spiFail spi =>
    obtain rfl | ⟨p, rfl⟩ := exec_spiFail_inv h
    · exact .of_eq rfl
    · exact .of_eq (State.setPeriph_cascades s spi p)
  | dbInit | dbRegister | dbEdge | dbSettle | timTick | envLevel | envStore => cases hi

end Quiet

/-- Settles O44: a drive or a byte sent is no callback, and without one only registrations and creations reach the observer. -/
theorem unsharedCascadesChangeByEventsOnly : Obligations.UnsharedCascadesChangeByEventsOnly := by
  intro i s t h hquiet
  obtain hi | hi | ⟨ln, v, rfl⟩ | ⟨a, v, rfl⟩ := unit_cases i
  · exact keepsUnshared_of_debounce hi h
  · exact keepsUnshared_of_shift hi h hquiet
  all_goals
    obtain rfl := Host.Outcome.next.inj h
    exact .of_eq rfl

/-! ## The GPIO-mode write seen by its cascade (R147, R148, R175, R177) -/

theorem gpioWrite_cascade {s : State} {k : Nat} {c : Cascade} (hc : s.cascades[k]? = some c) (ln : LineId) (v : Level) :
    (s.gpioWrite ln v).cascades[k]? = some (c.onDrive s.gpioOut ln v s.outTrace.length k) := by
  rw [State.gpioWrite_cascades, observeDrive_getElem?, hc, Option.map_some, Nat.zero_add]

/-- A drive low changes no cascade (R175, R177). -/
theorem gpioWrite_low_cascade {s : State} {k : Nat} {c : Cascade} (hc : s.cascades[k]? = some c) (ln : LineId) :
    (s.gpioWrite ln false).cascades[k]? = some c := by
  rw [gpioWrite_cascade hc, onDrive_low]

theorem drivenLevel_clockBit {s : State} {srclk ser ln : LineId} (hsrclk : ln ≠ srclk) (hser : ln ≠ ser) (b : Level) :
    drivenLevel (s.clockBit srclk ser b).gpioOut ln = drivenLevel s.gpioOut ln := by
  simp only [State.clockBit, drivenLevel_gpioWrite, if_neg hsrclk, if_neg hser]

theorem drivenLevel_clockBits {s : State} {srclk ser ln : LineId} (hsrclk : ln ≠ srclk) (hser : ln ≠ ser) (bits : List Level) :
    drivenLevel (bits.foldl (fun u v => u.clockBit srclk ser v) s).gpioOut ln = drivenLevel s.gpioOut ln := by
  induction bits generalizing s with
  | nil => rfl
  | cons b bits ih => exact ih.trans (drivenLevel_clockBit hsrclk hser b)

/-- Clocking bytes out leaves every line but the shift clock and the data line. -/
theorem drivenLevel_clockBytes {s : State} {srclk ser ln : LineId} (hsrclk : ln ≠ srclk) (hser : ln ≠ ser) (n : Nat) (a : Addr) :
    drivenLevel (State.clockBytes srclk ser n a s).gpioOut ln = drivenLevel s.gpioOut ln := by
  induction n generalizing s a with
  | zero => rfl
  | succ n ih => exact (ih _).trans (drivenLevel_clockBits hsrclk hser _)

/-- A storage clock that rises latches the cascade at its place (R177). -/
theorem gpioWrite_latch {s : State} {k : Nat} {c : Cascade} {rclk : LineId} (hc : s.cascades[k]? = some c)
    (hdist : c.distinct = true) (hrclk : c.tap.rclk = rclk) (hlow : drivenLevel s.gpioOut rclk = some false) :
    (s.gpioWrite rclk true).cascades[k]? = some c.latch := by
  rw [gpioWrite_cascade hc, onDrive_latch hdist hrclk hlow]

section GpioWrite

variable {s : State} {k : Nat} {c : Cascade} {srclk rclk ser : LineId}

/-- A bit clocked out is shifted in: the shift clock rises with the data line at the bit (R147, R175). -/
theorem clockBit_cascade (hc : s.cascades[k]? = some c) (htap : c.tap = .gpio srclk rclk ser) (hclk : srclk ≠ ser)
    (hser : ser ≠ rclk) (b : Level) : (s.clockBit srclk ser b).cascades[k]? = some (c.shiftBit b) := by
  have hlow := gpioWrite_low_cascade hc srclk
  have hdata : ((s.gpioWrite srclk false).gpioWrite ser b).cascades[k]? = some c := by
    rw [gpioWrite_cascade hlow]
    cases b with
    | false => rw [onDrive_low]
    | true => rw [onDrive_high_gpio htap, if_neg hclk.symm, if_neg hser]
  rw [State.clockBit, gpioWrite_cascade hdata, onDrive_high_gpio htap, if_pos rfl, shiftClockHigh_of_rising (b := b)]
  · rw [drivenLevel_gpioWrite, if_neg hclk, drivenLevel_gpioWrite, if_pos rfl]
  · rw [drivenLevel_gpioWrite, if_pos rfl]

theorem clockBits_cascade (hc : s.cascades[k]? = some c) (htap : c.tap = .gpio srclk rclk ser) (hclk : srclk ≠ ser)
    (hser : ser ≠ rclk) (bits : List Level) :
    (bits.foldl (fun u v => u.clockBit srclk ser v) s).cascades[k]? = some (bits.foldl Cascade.shiftBit c) := by
  induction bits generalizing s c with
  | nil => exact hc
  | cons b bits ih => exact ih (clockBit_cascade hc htap hclk hser b) htap

theorem clockBytes_cascade (hc : s.cascades[k]? = some c) (htap : c.tap = .gpio srclk rclk ser) (hclk : srclk ≠ ser)
    (hser : ser ≠ rclk) (n : Nat) (a : Addr) :
    (State.clockBytes srclk ser n a s).cascades[k]? = some (c.shiftBytes (bufferBytes s.mem a n)) := by
  induction n generalizing s c a with
  | zero => exact hc
  | succ n ih =>
    have hbyte : (s.clockByte srclk ser (memRead s.mem a)).cascades[k]? = some (c.shiftByte (memRead s.mem a)) :=
      (clockBits_cascade hc htap hclk hser _).trans (congrArg some (foldl_shiftBit_bitsOut c _))
    have hrest := ih hbyte htap (a + 1#16)
    rw [State.clockByte_mem] at hrest
    rw [bufferBytes_succ]
    exact hrest

/-- The drives of a write: the latch opened, the bytes clocked out, the latch closed (R145 to R148). -/
theorem writeDrives_cascade (hc : s.cascades[k]? = some c) (htap : c.tap = .gpio srclk rclk ser) (hs : s.sharesLine c = false)
    (n : Nat) (a : Addr) :
    ((State.clockBytes srclk ser n a (s.gpioWrite rclk false)).gpioWrite rclk true).cascades[k]? =
      some (c.loaded (bufferBytes s.mem a n)) := by
  obtain ⟨hlatch, hclk, hser⟩ := lines_ne_of_unshared htap hs
  have htap' := (shiftBytes_tap_chips c (bufferBytes s.mem a n)).1
  have hbytes := clockBytes_cascade (gpioWrite_low_cascade hc rclk) htap hclk hser.symm n a
  have hlow : drivenLevel (State.clockBytes srclk ser n a (s.gpioWrite rclk false)).gpioOut rclk = some false := by
    rw [drivenLevel_clockBytes hlatch.symm hser, drivenLevel_gpioWrite, if_pos rfl]
  exact gpioWrite_latch hbytes (distinct_congr htap' (distinct_of_unshared hs)) (congrArg Tap.rclk (htap'.trans htap)) hlow

/-- Settles O38: the write's drives load the cascade, and the backend written through is its own, so nothing is redrawn. -/
theorem gpioWriteReachesTheOutputs : Obligations.GpioWriteReachesTheOutputs := by
  intro srclk rclk ser addr len s k c hc htap hs
  have hrun : DriveRun s ((State.clockBytes srclk ser len.toNat addr (s.gpioWrite rclk false)).gpioWrite rclk true) :=
    ((DriveRun.drive .refl rclk false).clockBytes srclk ser len.toNat addr).drive rclk true
  have hunshared := (hrun.sharesLine (by simp) (by simp) (by simp) (by simp)
    (c.loaded_key (bufferBytes s.mem addr len.toNat))).trans hs
  obtain ⟨htap', hchips'⟩ := loaded_tap_chips c (bufferBytes s.mem addr len.toNat)
  obtain ⟨hboth, hvalue⟩ := loaded_stages c (bufferBytes s.mem addr len.toNat)
  have hshows : (c.loaded (bufferBytes s.mem addr len.toNat)).shows (.gpio srclk rclk ser) = true := by
    simp only [Cascade.shows, htap', htap, beq_self_eq_true, Bool.and_self]
  rw [bufferBytes_length] at hvalue
  refine ⟨_, _, exec_srWrite_gpio srclk rclk ser addr len s, ?_, htap', hchips', hboth, hvalue⟩
  rw [State.ret_cascades]
  exact noteInst_of_shows hshows (writeDrives_cascade hc htap hs len.toNat addr) hunshared

end GpioWrite

/-- The state after `ENV_STORE` (R171). -/
abbrev State.stored (s : State) (addr : Addr) (val : Byte) : State := (s.memWrite addr val).done

theorem stored_sharesLine (s : State) (addr : Addr) (val : Byte) (c : Cascade) :
    (s.stored addr val).sharesLine c = s.sharesLine c := sharesLine_congr rfl rfl rfl rfl

theorem bufferBytes_stored (s : State) (addr : Addr) (b b' : Byte) :
    bufferBytes ((s.stored addr b).stored (addr + 1#16) b').mem addr 2 = [b, b'] := by
  have hne : addr ≠ addr + 1#16 := by bv_omega
  rw [bufferBytes_succ, bufferBytes_succ, State.done_mem, memRead_memWrite, if_neg hne, State.done_mem, memRead_memWrite,
    if_pos rfl, memRead_memWrite, if_pos rfl]
  rfl

/-- Settles O40: the two stores place the digits, right first, and the write fills both chips with them. -/
theorem segWritePlacesBothDigits : Obligations.SegWritePlacesBothDigits := by
  intro srclk rclk ser addr right left s k c hc htap hchips hs
  have hstored : ((s.stored addr right).stored (addr + 1#16) left).sharesLine c = false := by
    rw [stored_sharesLine, stored_sharesLine, hs]
  obtain ⟨t, c', ht, hc', -, -, -, hout⟩ :=
    gpioWriteReachesTheOutputs srclk rclk ser addr 2#8 ((s.stored addr right).stored (addr + 1#16) left) k c hc htap hstored
  obtain ⟨t', ht', -, -, -, hframe⟩ :=
    srWriteGpioOutcome srclk rclk ser addr 2#8 ((s.stored addr right).stored (addr + 1#16) left)
  obtain rfl := Host.Outcome.next.inj (ht.symm.trans ht')
  refine ⟨t, c', ?run, hc', ?digits, congrArg State.result hframe⟩
  case run => exact ((runOps_cons rfl _).trans (runOps_cons rfl _)).trans ((runOps_singleton _ _).trans ht)
  case digits =>
    have htwo : (2#8).toNat = 2 := rfl
    have hroom : 256 ^ c.chips = 256 ^ 2 := by rw [hchips]
    rw [hout, hroom, htwo, bufferBytes_stored]
    simp only [bytesValue, List.length_cons, List.length_nil]
    omega

/-! ## The SPI transfer seen by its cascade (R152, R157, R176, R177) -/

section SpiTransfer

variable {s : State} {k : Nat} {c : Cascade} {h : SpiHandle} {rclk : LineId}

/-- The state in which the observer has seen a byte sent, before the redraw. -/
abbrev State.heard (s : State) (h : SpiHandle) (b : Byte) : State :=
  { s with outTrace := s.outTrace ++ [.tx h b], cascades := s.cascades.map (Cascade.onTransmit h b) }

theorem transmit_eq_redrawShared (s : State) (h : SpiHandle) (b : Byte) : s.transmit h b = (s.heard h b).redrawShared := rfl

theorem heard_sharesLine {d : Cascade} (hd : d.key = c.key) (b : Byte) : (s.heard h b).sharesLine d = s.sharesLine c := by
  have hlines := map_tap_chips_of_stages (fun c => tap_chips_of_key (Cascade.onTransmit_key h b c)) s.cascades
  exact sharesLine_congr rfl rfl hlines hd

/-- A byte sent is shifted in (R176). -/
theorem transmit_cascade (hc : s.cascades[k]? = some c) (htap : c.tap = .spi h rclk) (hs : s.sharesLine c = false) (b : Byte) :
    (s.transmit h b).cascades[k]? = some (c.shiftByte b) := by
  have hbyte : c.onTransmit h b = c.shiftByte b := by simp only [Cascade.onTransmit, htap, if_true]
  rw [transmit_eq_redrawShared]
  refine redrawShared_of_unshared ?_ ((heard_sharesLine rfl b).trans hs)
  rw [List.getElem?_map, hc, Option.map_some, hbyte]

/-- The completion latches the cascade on the owner's storage clock (R152, R177). -/
theorem performComplete_cascade {e : SpiRegEntry} (howner : s.owner h = some e) (hc : s.cascades[k]? = some c)
    (htap : c.tap = .spi h (descRclk e.inst)) (hs : s.sharesLine c = false) :
    (s.performComplete h).cascades[k]? = some c.latch := by
  have hlow : drivenLevel (s.gpioWrite (descRclk e.inst) false).gpioOut (descRclk e.inst) = some false := by
    rw [drivenLevel_gpioWrite, if_pos rfl]
  have hlatch := gpioWrite_latch (gpioWrite_low_cascade hc _) (distinct_of_unshared hs) (congrArg Tap.rclk htap) hlow
  have hrun : DriveRun s ((s.gpioWrite (descRclk e.inst) false).gpioWrite (descRclk e.inst) true) :=
    (DriveRun.drive .refl _ false).drive _ true
  rw [performComplete_some s h e howner]
  exact redrawShared_of_unshared hlatch ((hrun.sharesLine rfl rfl rfl rfl rfl).trans hs)

theorem byteSent_owner (s : State) (h : SpiHandle) (p : SpiPeriph) (h' : SpiHandle) : (s.byteSent h p).owner h' = s.owner h' :=
  owner_congr (by rw [byteSent_frame]) (by rw [byteSent_frame]) h'

theorem byteSent_cascade (hc : s.cascades[k]? = some c) (htap : c.tap = .spi h rclk) (hs : s.sharesLine c = false)
    (p : SpiPeriph) :
    (s.byteSent h p).cascades[k]? = some (c.shiftByte (memRead s.mem (p.addr + p.idx.setWidth 16))) := by
  rw [State.byteSent, State.setPeriph_cascades]
  exact transmit_cascade hc htap hs _

theorem byteSent_sharesLine (s : State) (h : SpiHandle) (p : SpiPeriph) {c d : Cascade} (hd : d.key = c.key) :
    (s.byteSent h p).sharesLine d = s.sharesLine c :=
  ((DriveRun.transmit .refl h _).setPeriph h p.sent).sharesLine (by simp) (by simp) (by simp) (by simp) hd

/-- The bytes left of a transfer are shifted in one after the other, and the completion of the last one latches them. -/
theorem runOps_spiBytes_cascade {n : Nat} {p : SpiPeriph} {e : SpiRegEntry} (hp : s.periph h = some p) (hbusy : p.busy = true)
    (hleft : p.idx.toNat + (n + 1) = p.len.toNat) (howner : s.owner h = some e) (hc : s.cascades[k]? = some c)
    (htap : c.tap = .spi h (descRclk e.inst)) (hs : s.sharesLine c = false) :
    ∃ t, runOps (List.replicate (n + 1) (.spiByte h)) s = .next t ∧
      t.cascades[k]? = some (c.loaded (bufferBytes s.mem (p.addr + p.idx.setWidth 16) (n + 1))) := by
  induction n generalizing s p c with
  | zero =>
    have hlast : p.idx + 1#8 = p.len := by bv_omega
    have hexec : exec (.spiByte h) s = .next ((s.byteSent h p).performComplete h).done :=
      (exec_spiByte_of_busy hp hbusy).trans (if_pos hlast)
    refine ⟨_, (runOps_singleton _ s).trans hexec, ?_⟩
    rw [bufferBytes_succ]
    exact performComplete_cascade ((byteSent_owner s h p h).trans howner) (byteSent_cascade hc htap hs p) htap
      ((byteSent_sharesLine s h p rfl).trans hs)
  | succ n ih =>
    have hmore : p.idx + 1#8 ≠ p.len := by bv_omega
    have hnext : p.addr + (p.idx + 1#8).setWidth 16 = p.addr + p.idx.setWidth 16 + 1#16 := by bv_omega
    have hexec : exec (.spiByte h) s = .next (s.byteSent h p).done := (exec_spiByte_of_busy hp hbusy).trans (if_neg hmore)
    have hperiph : (s.byteSent h p).done.periph h = some { p with busy := true, idx := p.idx + 1#8 } := by
      rw [← p.sent_of_more hmore]
      exact (byteSent_periph (periph_ne_zero hp) h).trans (if_pos rfl)
    obtain ⟨t, hrun, hrest⟩ := ih hperiph rfl (by dsimp only; bv_omega) ((byteSent_owner s h p h).trans howner)
      (byteSent_cascade hc htap hs p) htap ((byteSent_sharesLine s h p rfl).trans hs)
    refine ⟨t, (runOps_cons hexec _).trans hrun, ?_⟩
    rw [State.done_mem, byteSent_mem, hnext] at hrest
    rw [bufferBytes_succ _ _ (n + 1)]
    exact hrest

end SpiTransfer

/-- Settles O39: the owner's storage clock is the cascade's. -/
theorem spiTransferReachesTheOutputs : Obligations.SpiTransferReachesTheOutputs := by
  intro h s p e k c hp hbusy hlt howner _ hc htap hs
  obtain ⟨n, hn⟩ := Nat.exists_eq_add_of_lt hlt
  have hcount : p.len.toNat - p.idx.toNat = n + 1 := by omega
  have hdrain : pseudoSpiDrain s h = List.replicate (n + 1) (.spiByte h) := by
    simp only [pseudoSpiDrain, hp, if_pos hbusy, hcount]
  obtain ⟨t, hrun, hlatched⟩ :=
    runOps_spiBytes_cascade hp hbusy hn.symm ((owner_eq_find s h).trans howner) hc htap hs
  obtain ⟨htap', hchips'⟩ := loaded_tap_chips c (bufferBytes s.mem (p.addr + p.idx.setWidth 16) (n + 1))
  obtain ⟨hboth, hvalue⟩ := loaded_stages c (bufferBytes s.mem (p.addr + p.idx.setWidth 16) (n + 1))
  rw [bufferBytes_length] at hvalue
  rw [hdrain, hcount]
  exact ⟨t, _, hrun, hlatched, htap', hchips', hboth, hvalue⟩

end Sys2Proof.Machine
end

section
/-! Exceptions (60_exceptions.md): every step ends in a next state, and an operation that fails leaves the state as it was, but for the
one drive of an `SR_WRITE` that the peripheral refuses. -/

namespace Sys2Proof.Machine

/-! ## Every step answers (R190) -/

/-- No operation ends in a fault or a refusal: each of its arms answers a next state. -/
theorem exec_next (i : Instr) (s : State) : ∃ t, exec i s = .next t := by
  cases i <;> exact ⟨_, rfl⟩

theorem step_of_no_word {s : State} (hs : s.takeWord = none) : step s = .next s := by
  unfold step
  rw [hs]
  rfl

/-- Settles O8: the block waits, an operation runs, or an illegal word answers. -/
theorem everyStepAnswersNext : Obligations.EveryStepAnswersNext := by
  intro s
  cases hs : s.takeWord with
  | none => exact ⟨s, step_of_no_word hs⟩
  | some taken =>
    obtain ⟨w, t⟩ := taken
    cases hd : decode w with
    | ok i =>
      rw [step_of_takeWord hs hd]
      exact exec_next i t
    | error e => exact ⟨t.illegal, step_of_illegal hs hd⟩

/-! ## A write that the peripheral refuses (R194) -/

/-- `SpiSend` with a code other than 0 takes nothing (R156). -/
theorem spiSend_snd_of_refused {s : State} {spi : SpiHandle} {addr : Addr} {len : Len}
    (he : (s.spiSend spi addr len).1 ≠ 0#8) :
    (s.spiSend spi addr len).2 = s := by
  cases hp : s.periph spi with
  | none => unfold State.spiSend; rw [hp]
  | some p =>
    rw [spiSend_cases s spi addr len p hp] at he ⊢
    split_ifs at he ⊢
    · rfl
    · rfl
    · rfl
    · exact absurd rfl he

/-- The storage clock of the instance is the one its descriptor names, in both modes (R93). -/
theorem rclk_of_instOf {d : Desc} {j : Inst} (hj : instOf d = some j) : j.rclk = descRclk d := by
  have hd : DescWellFormed d := by
    by_contra hbad
    exact Option.some_ne_none j (hj.symm.trans ((instOf_eq_none_iff d).mpr hbad))
  obtain ⟨-, -, ⟨hmode, -⟩ | ⟨hmode, -⟩⟩ := (descWellFormed_iff d).mp hd
  · obtain rfl := Option.some.inj (hj.symm.trans (instOf_of_gpio hd hmode))
    rfl
  · obtain rfl := Option.some.inj (hj.symm.trans (instOf_of_spiSw hd hmode))
    rfl

/-- The drive of step 1 and the answer are all that a refused write leaves (R146, R194). -/
theorem opened_retPeriphError_eq (s : State) (spi : SpiHandle) (rclk : LineId) (e : ErrCode) :
    (s.opened spi rclk).retPeriphError e =
      { s with gpioOut := (s.gpioWrite rclk false).gpioOut, outTrace := s.outTrace ++ [.w rclk false],
               cascades := (s.opened spi rclk).cascades,
               result := some (resultWord .periphError (e.setWidth 32)) } := rfl

/-! ## How an operation ends (R190 to R194) -/

/-- The four ways in which an operation started in `s` ends. -/
inductive Ending (i : Instr) (s : State) : State → Prop
  /-- A result word and nothing else. -/
  | unchanged (st : Status) (v : ResultValue) : Ending i s (s.ret st v)
  /-- `OK`, whatever has changed. -/
  | ok (u : State) (v : ResultValue) : Ending i s (u.ret .ok v)
  /-- No result word. -/
  | silent {t : State} (ht : t.result = none) : Ending i s t
  /-- `PERIPH_ERROR` of a write, after the storage clock has been driven low. -/
  | refused {d : Desc} {addr : Addr} {len : Len} {spi : SpiHandle} (e : ErrCode) (hi : i = .srWrite d addr len) :
      Ending i s ((s.opened spi (descRclk d)).retPeriphError e)

section Endings

variable {i : Instr} {s t : State}

theorem Ending.of_cases {u : State} {w : ResultValue} (h : (∃ st v, t = s.ret st v) ∨ t = u.ret .ok w) : Ending i s t := by
  obtain ⟨st, v, rfl⟩ | rfl := h
  · exact .unchanged st v
  · exact .ok u w

theorem srWrite_ending {d : Desc} {addr : Addr} {len : Len} (h : exec (.srWrite d addr len) s = .next t) :
    Ending (.srWrite d addr len) s t := by
  simp only [exec, execSrWrite] at h
  cases hd : instOf d with
  | none =>
    rw [hd] at h
    obtain rfl := Host.Outcome.next.inj h
    exact .unchanged _ _
  | some j =>
    rw [hd] at h
    obtain rfl := Host.Outcome.next.inj h
    cases j with
    | gpio srclk rclk ser => exact .ok _ _
    | spiSw spi rclk =>
      obtain rfl : rclk = descRclk d := rclk_of_instOf hd
      dsimp only
      split_ifs with he
      · rw [spiSend_snd_of_refused he]
        exact .refused _ rfl
      · exact .ok _ _

theorem exec_ending (h : exec i s = .next t) : Ending i s t := by
  cases i with
  | dbInit tim ms => exact .of_cases (exec_dbInit_inv h)
  | dbRegister port pin level cb => exact .of_cases (exec_dbRegister_inv h)
  | dbEdge mask => exact .of_cases (exec_dbEdge_inv h)
  | srCreateGpio srclk rclk ser =>
    obtain rfl := Host.Outcome.next.inj h
    exact .ok _ _
  | srCreateSpi spi rclk => exact .of_cases (exec_srCreateSpi_inv h)
  | srWrite d addr len => exact srWrite_ending h
  | dbSettle | timTick | srComplete | spiByte | spiFail | envLevel | envStore => exact .silent (exec_result_none rfl h)

end Endings

/-- Settles O50: of the four endings only two carry a failure, and the refused write has driven the storage clock of its descriptor. -/
theorem failuresChangeNothing : Obligations.FailuresChangeNothing := by
  intro i s t r h hr hfail
  cases exec_ending h with
  | unchanged st v => exact .inl (congrArg (fun r => { s with result := r }) hr)
  | ok u v =>
    obtain rfl := Option.some.inj hr
    exact absurd (resultStatus_resultWord .ok v) hfail
  | silent ht => cases hr.symm.trans ht
  | refused e hi =>
    obtain rfl := Option.some.inj hr
    exact .inr ⟨_, _, _, hi, resultStatus_resultWord .periphError _, opened_retPeriphError_eq _ _ _ _,
      fun ln => drivenLevel_gpioWrite s _ ln false⟩

end Sys2Proof.Machine
end

section
/-! Reset and hazards (70_reset_and_hazards.md): the state after reset, waiting for a word, and the observed cascades that share a line. -/

namespace Sys2Proof.Machine

/-! ## What the observer reads (R232)

Sharing is read off the buttons, the registered backends and the cascades. Every operation leaves these three as they were, or leaves
them as a redraw of the cascades that share a line has left them. -/

/-- The buttons, the registered backends and the observed cascades. -/
def State.observer (s : State) : List LineId × List Inst × List Cascade := (s.buttonLines, s.registeredInsts, s.cascades)

section Observer

variable {s t : State}

theorem State.SharedInv.congr (hs : s.SharedInv) (h : t.observer = s.observer) : t.SharedInv := by
  simp only [State.observer, Prod.mk.injEq] at h
  obtain ⟨hbuttons, hinsts, hcascades⟩ := h
  intro k c hc hshares
  rw [hcascades] at hc
  exact hs k c hc ((sharesLine_congr hbuttons hinsts (by rw [hcascades]) rfl).symm.trans hshares)

/-- After the redraw every cascade that shares a line holds the free values just drawn. -/
theorem redrawShared_sharedInv (s : State) : s.redrawShared.SharedInv := by
  intro k d hd hshares
  rw [redrawShared_getElem?] at hd
  obtain ⟨c, -, hredrawn⟩ := Option.map_eq_some_iff.mp hd
  by_cases hc : s.sharesLine c = true
  · rw [if_pos hc] at hredrawn
    subst hredrawn
    exact ⟨s.outTrace.length, rfl, rfl⟩
  · rw [if_neg hc] at hredrawn
    subst hredrawn
    exact absurd ((redrawShared_sharesLine s rfl).symm.trans hshares) hc

/-- A settle writes no port and no pin of a registered line. -/
theorem performSettle_buttonLines (s : State) : s.performSettle.buttonLines = s.buttonLines := by
  change s.performSettle.lines.map _ = s.lines.map _
  rw [lines_performSettle, List.map_map]
  rfl

theorem observer_congr (hc : t.dbCount = s.dbCount) (hl : t.line = s.line) (hn : t.spiRegCount = s.spiRegCount)
    (hr : t.spiReg = s.spiReg) (hcascades : t.cascades = s.cascades) : t.observer = s.observer := by
  unfold State.observer
  rw [buttonLines_congr hc hl, registeredInsts_congr hn hr, hcascades]

theorem performSettle_observer (s : State) : s.performSettle.observer = s.observer := by
  unfold State.observer
  rw [performSettle_buttonLines, State.performSettle_cascades, registeredInsts_congr (s := s) (by simp) (by simp)]

theorem setPeriph_observer (s : State) (spi : SpiHandle) (p : SpiPeriph) : (s.setPeriph spi p).observer = s.observer :=
  observer_congr (by simp) (by simp) (by simp) (by simp) (by simp)

theorem spiSend_observer (s : State) (spi : SpiHandle) (addr : Addr) (len : Len) :
    (s.spiSend spi addr len).2.observer = s.observer := by
  obtain hsend | ⟨p, hsend⟩ := spiSend_snd s spi addr len
  · rw [hsend]
  · rw [hsend]
    exact setPeriph_observer s spi p

theorem performComplete_observer_cases (s : State) (spi : SpiHandle) :
    (s.performComplete spi).observer = s.observer ∨
      ∃ u : State, (s.performComplete spi).observer = u.redrawShared.observer := by
  cases ho : s.owner spi with
  | none => exact .inl (congrArg State.observer (performComplete_none s spi ho))
  | some e => exact .inr ⟨_, congrArg State.observer (performComplete_some s spi e ho)⟩

/-- What an operation does to the observer: nothing, or whatever it did was followed by a redraw. -/
theorem exec_observer_cases {i : Instr} (h : exec i s = .next t) :
    t.observer = s.observer ∨ ∃ u : State, t.observer = u.redrawShared.observer := by
  cases i with
  | dbInit tim ms => obtain ⟨st, v, rfl⟩ | rfl := exec_dbInit_inv h <;> exact .inl rfl
  | dbRegister port pin level cb =>
    obtain ⟨st, v, rfl⟩ | rfl := exec_dbRegister_inv h
    · exact .inl rfl
    · exact .inr ⟨s.appendLine _, rfl⟩
  | dbEdge mask => obtain ⟨st, v, rfl⟩ | rfl := exec_dbEdge_inv h <;> exact .inl rfl
  | dbSettle =>
    obtain rfl := Host.Outcome.next.inj h
    exact .inl (performSettle_observer s)
  | timTick =>
    obtain rfl | ⟨n, rfl⟩ | rfl := exec_timTick_inv h
    · exact .inl rfl
    · exact .inl rfl
    · exact .inl (performSettle_observer (s.timerCount 0#20))
  | srCreateGpio srclk rclk ser =>
    obtain rfl := Host.Outcome.next.inj h
    exact .inr ⟨s.met (.gpio srclk rclk ser), rfl⟩
  | srCreateSpi spi rclk =>
    obtain ⟨st, v, rfl⟩ | rfl := exec_srCreateSpi_inv h
    · exact .inl rfl
    · exact .inr ⟨(s.appendSpiReg _).met (.spiSw spi rclk), rfl⟩
  | srWrite inst addr len =>
    obtain rfl | ⟨srclk, rclk, ser, -, rfl⟩ | ⟨spi, rclk, st, v, -, rfl⟩ := exec_srWrite_inv h
    · exact .inl rfl
    · exact .inr ⟨((State.clockBytes srclk ser len.toNat addr (s.gpioWrite rclk false)).gpioWrite rclk true).met
        (.gpio srclk rclk ser), rfl⟩
    · exact .inr ⟨(s.gpioWrite rclk false).met (.spiSw spi rclk), spiSend_observer _ spi addr len⟩
  | srComplete spi =>
    obtain rfl := Host.Outcome.next.inj h
    exact performComplete_observer_cases s spi
  | spiByte spi =>
    obtain rfl | ⟨b, p, rfl | rfl⟩ := exec_spiByte_inv h
    · exact .inl rfl
    all_goals have hsent := setPeriph_observer (s.transmit spi b) spi p
    · exact .inr ⟨s.heard spi b, hsent⟩
    · obtain hnone | ⟨u, hu⟩ := performComplete_observer_cases ((s.transmit spi b).setPeriph spi p) spi
      · exact .inr ⟨s.heard spi b, hnone.trans hsent⟩
      · exact .inr ⟨u, hu⟩
  | spiFail spi =>
    obtain rfl | ⟨p, rfl⟩ := exec_spiFail_inv h
    · exact .inl rfl
    · exact .inl (setPeriph_observer s spi p)
  | envLevel | envStore =>
    obtain rfl := Host.Outcome.next.inj h
    exact .inl rfl

theorem exec_keeps_sharedInv (i : Instr) (s t : State) (h : exec i s = .next t) (hs : s.SharedInv) : t.SharedInv := by
  obtain hsame | ⟨u, hredrawn⟩ := exec_observer_cases h
  · exact hs.congr hsame
  · exact (redrawShared_sharedInv u).congr hredrawn

end Observer

/-- Settles O41: an operation leaves all that sharing is read off, or redraws the cascades that share a line. -/
theorem stepKeepsSharedFree : Obligations.StepKeepsSharedFree :=
  fun _ _ hs h => step_keeps (fun _ _ _ _ hs => hs.congr rfl) exec_keeps_sharedInv h hs

/-! ## What makes a cascade share a line (R141, R232) -/

theorem meets_iff {xs ys : List LineId} : meets xs ys = true ↔ ∃ ln ∈ xs, ln ∈ ys := by simp [meets]

/-- The five ways to share a line (log entry 12). -/
theorem sharesLine_iff {s : State} {c : Cascade} :
    s.sharesLine c = true ↔
      c.shared = true ∨ c.distinct = false ∨ meets s.buttonLines c.tap.lines = true ∨
      (∃ j ∈ s.registeredInsts, meets j.lines c.tap.lines = true ∧ c.shows j = false) ∨
      ∃ d ∈ s.cascades, (d.tap ≠ c.tap ∨ d.chips ≠ c.chips) ∧ meets d.tap.lines c.tap.lines = true := by
  simp [State.sharesLine, or_assoc]

/-- The backend that an operation creates or writes through; a creation that fails registers nothing and meets none. -/
def instMet (s t : State) : Instr → Option Inst
  | .srCreateGpio srclk rclk ser => some (.gpio srclk rclk ser)
  | .srCreateSpi spi rclk => if s.spiRegCount = t.spiRegCount then none else some (.spiSw spi rclk)
  | .srWrite inst _ _ => instOf inst
  | .dbInit _ _ | .dbRegister _ _ _ _ | .dbEdge _ | .dbSettle | .timTick | .srComplete _ | .spiByte _ | .spiFail _
  | .envLevel _ _ | .envStore _ _ => none

/-- What a cascade is apart from its stages, once the observer has met a backend. -/
def Cascade.keyAfter (c : Cascade) (o : Option Inst) : Tap × Nat × Bool :=
  (c.tap, c.chips, c.shared || o.any fun j => meets j.lines c.tap.lines && !c.shows j)

/-- At each place stands the cascade that stood there, its bit set where the backend met makes it share a line. -/
def KeysAfter (o : Option Inst) (s t : State) : Prop :=
  ∀ (k : Nat) (c : Cascade), s.cascades[k]? = some c → ∃ c', t.cascades[k]? = some c' ∧ c'.key = c.keyAfter o

section Keys

variable {s t u : State} {c d : Cascade} {o : Option Inst}

theorem instMet_srCreateSpi_of_same {spi : SpiHandle} {rclk : LineId} (h : s.spiRegCount = t.spiRegCount) :
    instMet s t (.srCreateSpi spi rclk) = none := if_pos h

theorem instMet_srCreateSpi_of_grown {spi : SpiHandle} {rclk : LineId} (h : s.spiRegCount ≠ t.spiRegCount) :
    instMet s t (.srCreateSpi spi rclk) = some (.spiSw spi rclk) := if_neg h

theorem shows_congr (htap : d.tap = c.tap) (j : Inst) : d.shows j = c.shows j := by
  unfold Cascade.shows; rw [htap]

theorem keyAfter_none (c : Cascade) : c.keyAfter none = c.key := by
  simp only [Cascade.keyAfter, Option.any_none, Bool.or_false, Cascade.key]

theorem keyAfter_congr (h : d.key = c.key) (o : Option Inst) : d.keyAfter o = c.keyAfter o := by
  simp only [Cascade.key, Prod.mk.injEq] at h
  obtain ⟨htap, hchips, hshared⟩ := h
  simp only [Cascade.keyAfter, shows_congr htap, htap, hchips, hshared]

/-- What changes only stages of cascades changes no key. -/
theorem KeysAfter.mapped (h : KeysAfter o s t) (f : Nat → Cascade → Cascade) (hf : ∀ k c, (f k c).key = c.key)
    (hu : ∀ k : Nat, u.cascades[k]? = t.cascades[k]?.map (f k)) : KeysAfter o s u := by
  intro k c hc
  obtain ⟨c', hc', hkey⟩ := h k c hc
  exact ⟨f k c', by rw [hu, hc', Option.map_some], (hf k c').trans hkey⟩

theorem KeysAfter.refl (s : State) : KeysAfter none s s := fun _ c hc => ⟨c, hc, (keyAfter_none c).symm⟩

theorem KeysAfter.same (h : KeysAfter o s t) (hu : u.cascades = t.cascades) : KeysAfter o s u :=
  fun k c hc => hu ▸ h k c hc

theorem KeysAfter.redrawShared (h : KeysAfter o s t) : KeysAfter o s t.redrawShared := by
  refine h.mapped _ (fun k c => ?_) (redrawShared_getElem? t)
  split <;> rfl

theorem KeysAfter.drive (h : KeysAfter o s t) (ln : LineId) (v : Level) : KeysAfter o s (t.gpioWrite ln v) :=
  h.mapped _ (fun _ c => Cascade.onDrive_key _ _ _ _ _ c) (fun k => observeDrive_getElem? t.gpioOut ln v t.outTrace.length 0 k t.cascades)

theorem KeysAfter.clockBytes (h : KeysAfter o s t) (srclk ser : LineId) (n : Nat) (a : Addr) :
    KeysAfter o s (State.clockBytes srclk ser n a t) := by
  induction n generalizing t a with
  | zero => exact h
  | succ n ih =>
    have hbyte : KeysAfter o s (t.clockByte srclk ser (memRead t.mem a)) :=
      (bitsOut _).foldlRecOn _ h fun _ hu b _ => ((hu.drive srclk false).drive ser b).drive srclk true
    exact ih hbyte (a + 1#16)

theorem KeysAfter.noteInst (h : KeysAfter none s t) (j : Inst) : KeysAfter (some j) s (t.noteInst j) := by
  rw [noteInst_eq_redrawShared]
  refine KeysAfter.redrawShared fun k c hc => ?_
  obtain ⟨c', hc', hkey⟩ := h k c hc
  rw [keyAfter_none] at hkey
  exact ⟨c'.meetInst j, met_cascade hc' j, (Cascade.meetInst_key j c').trans (keyAfter_congr hkey (some j))⟩

theorem KeysAfter.transmit (h : KeysAfter o s t) (spi : SpiHandle) (b : Byte) : KeysAfter o s (t.transmit spi b) := by
  have hheard : KeysAfter o s (t.heard spi b) :=
    h.mapped (fun _ => Cascade.onTransmit spi b) (fun _ c => Cascade.onTransmit_key spi b c) (fun _ => List.getElem?_map)
  exact hheard.redrawShared

theorem KeysAfter.performComplete (h : KeysAfter o s t) (spi : SpiHandle) : KeysAfter o s (t.performComplete spi) := by
  cases ho : t.owner spi with
  | none => rwa [performComplete_none t spi ho]
  | some e =>
    rw [performComplete_some t spi e ho]
    exact ((h.drive _ false).drive _ true).redrawShared

theorem KeysAfter.spiSend (h : KeysAfter o s t) (spi : SpiHandle) (addr : Addr) (len : Len) :
    KeysAfter o s (t.spiSend spi addr len).2 :=
  h.same (congrArg (fun ob => ob.2.2) (spiSend_observer t spi addr len))

/-- A write meets the backend of its descriptor, if that is well-formed (R94, R150). -/
theorem exec_srWrite_keysAfter {inst : Desc} {addr : Addr} {len : Len} (h : exec (.srWrite inst addr len) s = .next t) :
    KeysAfter (instOf inst) s t := by
  simp only [exec, execSrWrite] at h
  have start := KeysAfter.refl s
  cases hj : instOf inst with
  | none =>
    rw [hj] at h
    obtain rfl := Host.Outcome.next.inj h
    exact start.same rfl
  | some j =>
    rw [hj] at h
    obtain rfl := Host.Outcome.next.inj h
    cases j with
    | gpio srclk rclk ser =>
      exact ((((start.drive rclk false).clockBytes srclk ser len.toNat addr).drive rclk true).noteInst _).same rfl
    | spiSw spi rclk =>
      have hsent := ((start.drive rclk false).noteInst (.spiSw spi rclk)).spiSend spi addr len
      dsimp only
      split
      · exact hsent.same rfl
      · exact hsent.same rfl

/-- Every operation leaves the cascades' lines and chips, and sets the observer's bit by the backend it meets. -/
theorem exec_keysAfter {i : Instr} (h : exec i s = .next t) : KeysAfter (instMet s t i) s t := by
  have start := KeysAfter.refl s
  cases i with
  | dbInit tim ms => obtain ⟨st, v, rfl⟩ | rfl := exec_dbInit_inv h <;> exact start.same rfl
  | dbRegister port pin level cb =>
    obtain ⟨st, v, rfl⟩ | rfl := exec_dbRegister_inv h
    · exact start.same rfl
    · exact (start.same (u := s.appendLine _) rfl).redrawShared.same rfl
  | dbEdge mask => obtain ⟨st, v, rfl⟩ | rfl := exec_dbEdge_inv h <;> exact start.same rfl
  | dbSettle =>
    obtain rfl := Host.Outcome.next.inj h
    exact start.same (State.performSettle_cascades s)
  | timTick =>
    obtain rfl | ⟨n, rfl⟩ | rfl := exec_timTick_inv h
    · exact start.same rfl
    · exact start.same rfl
    · exact start.same (State.performSettle_cascades (s.timerCount 0#20))
  | srCreateGpio srclk rclk ser =>
    obtain rfl := Host.Outcome.next.inj h
    exact (start.noteInst _).same rfl
  | srCreateSpi spi rclk =>
    obtain ⟨st, v, rfl⟩ | rfl := exec_srCreateSpi_inv h
    · rw [instMet_srCreateSpi_of_same (State.ret_spiRegCount s st v).symm]
      exact start.same rfl
    · have hgrown : s.spiRegCount ≠ s.spiRegCount + 1#2 := by bv_omega
      rw [instMet_srCreateSpi_of_grown hgrown]
      exact ((start.same (u := s.appendSpiReg _) rfl).noteInst _).same rfl
  | srWrite inst addr len => exact exec_srWrite_keysAfter h
  | srComplete spi =>
    obtain rfl := Host.Outcome.next.inj h
    exact (start.performComplete spi).same rfl
  | spiByte spi =>
    obtain rfl | ⟨b, p, rfl | rfl⟩ := exec_spiByte_inv h
    · exact start.same rfl
    all_goals have hsent := (start.transmit spi b).same (State.setPeriph_cascades (s.transmit spi b) spi p)
    · exact hsent.same rfl
    · exact (hsent.performComplete spi).same rfl
  | spiFail spi =>
    obtain rfl | ⟨p, rfl⟩ := exec_spiFail_inv h
    · exact start.same rfl
    · exact start.same (State.setPeriph_cascades s spi p)
  | envLevel | envStore =>
    obtain rfl := Host.Outcome.next.inj h
    exact start.same rfl

/-- A registered button stays one (R30). -/
theorem exec_keeps_buttonLines {i : Instr} (h : exec i s = .next t) : s.buttonLines ⊆ t.buttonLines := by
  intro ln hln
  obtain ⟨e, he, rfl⟩ := List.mem_map.mp hln
  obtain ⟨k, hk⟩ := List.mem_iff_getElem?.mp he
  obtain ⟨v, hv, -⟩ := exec_keeps_line h hk
  exact List.mem_map.mpr ⟨_, List.mem_of_getElem? hv, rfl⟩

/-- A registered backend stays registered (R33). -/
theorem exec_keeps_registeredInsts {i : Instr} (h : exec i s = .next t) : s.registeredInsts ⊆ t.registeredInsts :=
  List.map_subset _ (exec_keeps_registry h).subset

/-- Sharing stays while buttons, backends and cascades stay. -/
theorem sharesLine_mono (hbuttons : s.buttonLines ⊆ t.buttonLines) (hinsts : s.registeredInsts ⊆ t.registeredInsts)
    (hkeys : KeysAfter o s t) (hd : d.key = c.keyAfter o) (hc : s.sharesLine c = true) : t.sharesLine d = true := by
  obtain ⟨htap, hchips⟩ := tap_chips_of_key hd
  simp only [Cascade.key, Cascade.keyAfter, Prod.mk.injEq] at hd
  obtain ⟨-, -, hbit⟩ := hd
  rw [sharesLine_iff] at hc ⊢
  rw [htap, hchips]
  obtain hshared | hself | hbutton | ⟨j, hj, hmeets, hshows⟩ | ⟨e, he, hne, hmeets⟩ := hc
  · exact .inl (by rw [hbit, hshared, Bool.true_or])
  · exact .inr (.inl (by rwa [Cascade.distinct, htap]))
  · obtain ⟨ln, hln, hmem⟩ := meets_iff.mp hbutton
    exact .inr (.inr (.inl (meets_iff.mpr ⟨ln, hbuttons hln, hmem⟩)))
  · exact .inr (.inr (.inr (.inl ⟨j, hinsts hj, hmeets, (shows_congr htap j).trans hshows⟩)))
  · obtain ⟨k, hk⟩ := List.mem_iff_getElem?.mp he
    obtain ⟨e', he', hkey⟩ := hkeys k e hk
    obtain ⟨htap', hchips'⟩ := tap_chips_of_key hkey
    exact .inr (.inr (.inr (.inr ⟨e', List.mem_of_getElem? he', by rwa [htap', hchips'], by rwa [htap']⟩)))

/-- A cascade shares a line once the observer has met a backend that has one of its lines and is not its own. -/
theorem sharesLine_of_met {j : Inst} (hd : d.key = c.keyAfter (some j)) (hmeets : meets j.lines c.tap.lines = true)
    (hshows : c.shows j = false) : t.sharesLine d = true := by
  simp only [Cascade.key, Cascade.keyAfter, Prod.mk.injEq] at hd
  obtain ⟨-, -, hbit⟩ := hd
  exact sharesLine_of_shared (by rw [hbit, Option.any_some, hmeets, hshows, Bool.not_false, Bool.and_self, Bool.or_true])

theorem shows_gpio_iff {srclk rclk ser : LineId} : c.shows (.gpio srclk rclk ser) = true ↔ c.tap = .gpio srclk rclk ser := by
  cases htap : c.tap with
  | gpio => simp [Cascade.shows, htap, and_assoc]
  | spi => simp [Cascade.shows, htap]

theorem shows_spiSw_iff {spi : SpiHandle} {rclk : LineId} : c.shows (.spiSw spi rclk) = true ↔ c.tap = .spi spi rclk := by
  cases htap : c.tap with
  | gpio => simp [Cascade.shows, htap]
  | spi => simp [Cascade.shows, htap]

/-- The line of a successful registration is a button from then on (R114). -/
theorem exec_dbRegister_buttonLines {port : PortNum} {pin : PinMask} {level : Level} {cb : CallbackId}
    (h : exec (.dbRegister port pin level cb) s = .next t) (hcount : s.dbCount ≠ t.dbCount) :
    lineOf port pin ∈ t.buttonLines := by
  obtain ⟨st, v, rfl⟩ | ⟨-, hlt, rfl⟩ := exec_dbRegister_cases h
  · exact absurd rfl hcount
  · have hlines := lines_appendLine hlt { port := port, pin := pin, lastState := level, cb := cb }
    refine List.mem_map.mpr ⟨{ port := port, pin := pin, lastState := level, cb := cb }, ?_, rfl⟩
    change _ ∈ (s.appendLine _).lines
    rw [hlines]
    exact List.mem_append_right _ (List.mem_singleton_self _)

end Keys

/-- Settles O43: the bit of the observer, the buttons and the backends only grow, and each of the operations named adds one of them. -/
theorem sharingBeginsAndStays : Obligations.SharingBeginsAndStays := by
  intro i s t k c h hc
  have hkeys := exec_keysAfter h
  obtain ⟨c', hc', hkey⟩ := hkeys k c hc
  obtain ⟨htap, hchips⟩ := tap_chips_of_key hkey
  refine ⟨c', hc', htap, hchips, ?stays, ?write, ?createGpio, ?createSpi, ?register⟩
  case stays => exact sharesLine_mono (exec_keeps_buttonLines h) (exec_keeps_registeredInsts h) hkeys hkey
  case write =>
    rintro inst addr len j rfl hj hmeets hshows
    rw [instMet, hj] at hkey
    exact sharesLine_of_met hkey hmeets hshows
  case createGpio =>
    rintro srclk rclk ser rfl hmeets hne
    exact sharesLine_of_met (j := .gpio srclk rclk ser) hkey hmeets (Bool.eq_false_of_not_eq_true (mt shows_gpio_iff.mp hne))
  case createSpi =>
    rintro spi rclk rfl hcount hmeets hne
    rw [instMet_srCreateSpi_of_grown hcount] at hkey
    exact sharesLine_of_met (j := .spiSw spi rclk) hkey hmeets (Bool.eq_false_of_not_eq_true (mt shows_spiSw_iff.mp hne))
  case register =>
    rintro port pin level cb rfl hcount hmem
    rw [← htap] at hmem
    exact sharesLine_iff.mpr (.inr (.inr (.inl (meets_iff.mpr ⟨_, exec_dbRegister_buttonLines h hcount, hmem⟩))))

/-! ## Reset (R221 to R223) -/

/-- Settles O7: with no item to take, the step has no word. -/
theorem stepWaitsForAWord : Obligations.StepWaitsForAWord := by
  intro s hs
  have hnone : s.takeWord = none := by unfold State.takeWord; rw [hs]
  exact step_of_no_word hnone

section Reset

variable (p : Launch)

theorem atReset_line {i : Nat} (hi : i < 16) : (State.atReset p).line[i]? = some LineEntry.zero :=
  Vector.getElem?_replicate.trans (if_pos hi)

theorem atReset_spiReg {j : Nat} (hj : j < 3) : (State.atReset p).spiReg[j]? = some SpiRegEntry.zero :=
  Vector.getElem?_replicate.trans (if_pos hj)

theorem atReset_periph {h : SpiHandle} (hne : h ≠ 0#2) : (State.atReset p).periph h = some SpiPeriph.idle := by
  obtain ⟨n, hn⟩ := exists_toNat_eq_succ hne
  have hlt := h.isLt
  unfold State.periph
  rw [hn]
  exact Vector.getElem?_replicate.trans (if_pos (by omega))

/-- After reset no button and no backend is registered, so only the cascades themselves can share lines (R222, R232). -/
theorem atReset_sharesLine_iff {c : Cascade} :
    (State.atReset p).sharesLine c = true ↔
      c.shared = true ∨ c.distinct = false ∨
      ∃ d ∈ p.cascades, (d.tap ≠ c.tap ∨ d.chips ≠ c.chips) ∧ meets d.tap.lines c.tap.lines = true := by
  have hbuttons : (State.atReset p).buttonLines = [] := rfl
  have hinsts : (State.atReset p).registeredInsts = [] := rfl
  have hcascades : (State.atReset p).cascades = p.cascades := rfl
  rw [sharesLine_iff, hbuttons, hinsts, hcascades]
  simp [meets]

end Reset

/-- Settles O9: every field by the definition of reset, the tables and the peripherals entry by entry. -/
theorem resetBlockState : Obligations.ResetBlockState :=
  fun p => ⟨rfl, rfl, rfl, rfl, rfl, rfl, rfl, fun _ => atReset_line p, rfl, fun _ => atReset_spiReg p, fun _ => atReset_periph p,
    fun _ => rfl, rfl, rfl, atReset_lines p, atReset_registry p⟩

/-- Settles O10: reset copies the launch parameters. -/
theorem resetTakesLaunchParameters : Obligations.ResetTakesLaunchParameters :=
  ⟨fun _ => ⟨rfl, rfl, rfl, rfl, rfl, rfl⟩, rfl⟩

/-- Settles O12: no line is in the mask, the timer stands, both registries are empty and no peripheral is busy. -/
theorem freshBlockIgnoresInterrupts : Obligations.FreshBlockIgnoresInterrupts := by
  intro p mask h
  have hidle : ∀ q, (State.atReset p).periph h = some q → q.busy = false := fun _ => atReset_idle p
  refine ⟨?edge, ?quiet⟩
  case edge =>
    have hmask : mask &&& (State.atReset p).dbMask = 0#16 := BitVec.and_zero
    simp only [exec, execDbEdge, if_pos hmask]
    rfl
  case quiet =>
    simp only [List.forall_mem_cons]
    exact ⟨exec_timTick_of_stopped rfl, rfl, rfl, exec_spiByte_of_idle hidle, exec_spiFail_of_idle hidle, fun _ hi => nomatch hi⟩

/-- Settles O42: at reset a cascade could only share a line with itself or another cascade, and the launch excludes both. -/
theorem resetMeetsSharedFree : Obligations.ResetMeetsSharedFree := by
  intro p hp
  have hfree : ∀ c ∈ p.cascades, (State.atReset p).sharesLine c = false := by
    intro c hc
    obtain ⟨hshared, hdistinct, hothers⟩ := hp c hc
    refine Bool.eq_false_of_not_eq_true fun hshares => ?_
    obtain hbit | hself | ⟨d, hd, hne, hmeets⟩ := (atReset_sharesLine_iff p).mp hshares
    · exact nomatch hshared.symm.trans hbit
    · exact nomatch hdistinct.symm.trans hself
    · obtain ⟨htap, hchips⟩ | hapart := hothers d hd
      · exact hne.elim (absurd htap) (absurd hchips)
      · exact nomatch hapart.symm.trans hmeets
  exact ⟨hfree, fun k c hc hshares => nomatch (hfree c (List.mem_of_getElem? hc)).symm.trans hshares⟩

end Sys2Proof.Machine
end
